-- ==== Sys2Proof/Word.lean ====
section
/-! DEFINITION. The word types of the JLCD core: bytes, nibbles, readings, and the two transfer formats. -/

namespace Sys2Proof

/-- An 8-bit value: a command code, a character, a frame cell. -/
abbrev Byte := BitVec 8

/-- A 4-bit value on the lines D7..D4 (R63). -/
abbrev Nibble := BitVec 4

/-- A converted value, 10 bits unsigned (R116). -/
abbrev Reading := BitVec 10

/-- A word on the display bus. There are two formats and no other (R90). -/
inductive BusWord where
  /-- Format N5, one pulse: bit 4 is `rs`, bits 3:0 the nibble (R91). -/
  | n5 (w : BitVec 5)
  /-- Format B9, two pulses: bit 8 is `rs`, bits 7:0 the value (R92). -/
  | b9 (w : BitVec 9)
  deriving DecidableEq, Repr

end Sys2Proof
end

