-- ==== Sys2Proof/Machine/Memory.lean ====
section
/-! DEFINITION. Memory as a canonical list of (address, byte) pairs, used for the frame buffer (R60) and for the
display's character cells (R207). -/

namespace Sys2Proof.Machine

/-- Listed cells, addresses strictly rising, none equal to what an unlisted address reads as. -/
abbrev Memory := List Host.Cell

namespace Memory

/-- The canonical form, for `size` addresses and the byte `blank` that an unlisted address reads as. -/
abbrev wf (size : Nat) (blank : Byte) (m : Memory) : Prop :=
  m.Pairwise (fun p q => p.1 < q.1) ∧ ∀ p ∈ m, p.1 < size ∧ p.2 ≠ blank

/-- One byte. -/
def read (blank : Byte) : Memory → Nat → Byte
  | [], _ => blank
  | (b, v) :: rest, a => if a = b then v else read blank rest a

/-- One byte written; writing `blank` unlists the address. -/
def write (blank : Byte) : Memory → Nat → Byte → Memory
  | [], a, v => if v = blank then [] else [(a, v)]
  | (b, w) :: rest, a, v =>
    if a < b then
      if v = blank then (b, w) :: rest else (a, v) :: (b, w) :: rest
    else if a = b then
      if v = blank then rest else (a, v) :: rest
    else (b, w) :: write blank rest a v

/-- All of `size` addresses written at once. -/
def ofFun (size : Nat) (blank : Byte) (f : Nat → Byte) : Memory :=
  (List.range size).filterMap fun a => if f a = blank then none else some (a, f a)

end Memory

/-- The frame buffer has 20 cells, "capacity 20, including terminator" (R26). -/
abbrev frameCap : Nat := 20

/-- What an unlisted frame cell reads as: the reset value of every cell (R37). -/
abbrev frameBlank : Byte := 0x00#8

/-- The reference display has 128 plain cells (R207). -/
abbrev cellCap : Nat := 128

/-- What an unlisted display cell reads as: the code the clear command writes (R208). -/
abbrev cellBlank : Byte := 0x20#8

end Sys2Proof.Machine
end

