-- ==== Sys2Proof/Machine/Vocabulary.lean ====
section
/-! DEFINITION. The vocabulary of the sequencer and of its surroundings: µops, phases, interface events, input levels,
and the state of the reference display. -/

namespace Sys2Proof.Machine

/-- The two analog axes (R24). -/
inductive Axis where
  | x
  | y
  deriving DecidableEq, Repr

/-- The two buttons (R24). -/
inductive Button where
  | one
  | two
  deriving DecidableEq, Repr

/-- The mode-select line and the enable line of the display. The four data lines move together (R31, D5). -/
inductive Pin where
  | rs
  | e
  deriving DecidableEq, Repr

/-- The five delay parameters by name (R6). -/
inductive DelayName where
  | eHold
  | settle
  | init
  | sample
  | loop
  deriving DecidableEq, Repr

/-- The four µops of R31 that a transfer to the display is made of. `Delay` is used by the sampler too. -/
inductive BusOp where
  | setRs (l : Bool)
  | setD (n : Nibble)
  | setE (l : Bool)
  | delay (d : DelayName)
  deriving DecidableEq, Repr

/-- The closed list of µops (R31). -/
inductive MicroOp where
  | bus (op : BusOp)
  | adcSel (c : Nat)
  | adcSample
  | adcConvert
  | adcPoll
  | adcRead (r : Axis)
  | readBtn (k : Button)
  | decide
  | update
  | textEnd (n : Nat)
  deriving DecidableEq, Repr

/-- The nine phases of the control state (R30). -/
inductive Phase where
  | init
  | sampleX
  | sampleY
  | buttons
  | decide
  | update
  | clear
  | text
  | throttle
  deriving DecidableEq, Repr

/-- The control state: a phase and the index of the next µop in its list (R30). -/
structure Pc where
  phase : Phase
  u     : Nat
  deriving DecidableEq, Repr

/-- Two axis readings and two button states: the current readings (R24) or the snapshot (R25). -/
structure Readings where
  x  : Reading
  y  : Reading
  b1 : Bool
  b2 : Bool
  deriving DecidableEq, Repr, Inhabited

/-- The levels on the input ports at one tick (R21). -/
structure Inputs where
  rst       : Bool
  btn1      : Bool
  btn2      : Bool
  adcDone   : Bool
  adcResult : Reading
  deriving DecidableEq, Repr, Inhabited

/-- The events of the interface trace (R10, R13, R31). `dataWrite n` stands for the four simultaneous pin writes of
one `SetD`. -/
inductive Event where
  | pinWrite (p : Pin) (l : Bool)
  | dataWrite (n : Nibble)
  | adcSelect (id : Nat)
  | adcStartSample
  | adcStopSampleStartConvert
  | adcDone (d : Bool)
  | adcResult (v : Reading)
  | pinRead (k : Button) (l : Bool)
  | delay (d : DelayName)
  deriving DecidableEq, Repr

/-- Interface state of the display (R202): 8-bit; 4-bit expecting a high nibble; 4-bit holding a high nibble. `stray` is
the model's own: the held nibble was left over at a reset, so the byte it will be half of is a stray one (R213, log 8). -/
inductive Ifc where
  | if8
  | if4Hi
  | if4Lo (hiLatch : Nibble) (stray : Bool)
  deriving DecidableEq, Repr, Inhabited

/-- A nibble the display holds when the block is reset is a stray one (R68 (a), R262 (b)). -/
def Ifc.strayed : Ifc → Ifc
  | .if8 => .if8
  | .if4Hi => .if4Hi
  | .if4Lo h _ => .if4Lo h true

/-- What a reset of the block finds of the display (R204): it kept its power and its state; it took a pulse at the fall of
`E` (R262 (a)); or it was just powered, in any state. -/
inductive DisplayAtReset where
  | kept
  | latched (rs : Bool) (n : Nibble)
  | repowered (ifc : Ifc)
  deriving DecidableEq, Repr, Inhabited

/-- Display state (R207). -/
structure Panel where
  cells : Memory
  ac    : BitVec 7
  id    : Bool
  s     : Bool
  d     : Bool
  c     : Bool
  b     : Bool
  nl    : Bool
  f     : Bool
  deriving DecidableEq, Repr, Inhabited

/-- The reference display: interface state, display state, and the model's own count of free values taken. -/
structure Lcd where
  ifc   : Ifc
  panel : Panel
  draws : Nat
  deriving DecidableEq, Repr

end Sys2Proof.Machine
end

