-- ==== Sys2Proof/Config.lean ====
section
/-! DEFINITION. What an implementation fixes (the parameters of R6) and the free values, which have no body. -/

namespace Sys2Proof

/-- The parameters of R6 that are not fixed counts. -/
structure Config where
  wakeNibble      : Nibble
  mode4Nibble     : Nibble
  functionSetCode : Byte
  displayOffCode  : Byte
  clearCode       : Byte
  entryModeCode   : Byte
  displayOnCode   : Byte
  line2Code       : Byte
  lineBreak       : Byte
  term            : Byte
  btn1Letter      : Byte
  btn2Letter      : Byte
  /-- The pin level that means "pressed". -/
  btnActive       : Bool
  chX             : Nat
  chY             : Nat
  chW             : Nat
  snapReset       : Machine.Readings
  tEHold          : Nat
  tSettle         : Nat
  tInit           : Nat
  tSample         : Nat
  tLoop           : Nat
  /-- `N_INIT_CMDS`, the two-nibble commands of `INIT` (C1, D7). -/
  nInitCmds       : Nat
  /-- Clock frequency in Hz; no rule of the behaviour reads it (D2). -/
  fClk            : Nat
  deriving DecidableEq, Repr

namespace Config

/-- FREE. The OPEN delays of R6 less one, since each is at least 1 (D10). -/
opaque openEHold : Nat
/-- FREE. As `openEHold`. -/
opaque openSettle : Nat
/-- FREE. As `openEHold`. -/
opaque openInit : Nat
/-- FREE. As `openEHold`. -/
opaque openSample : Nat
/-- FREE. As `openEHold`. -/
opaque openLoop : Nat
/-- FREE. The OPEN clock frequency of R6. -/
opaque openFClk : Nat

/-- FREE. The input levels at a tick for which the platform has scheduled none (R12). -/
opaque freeInputs : Nat → Machine.Inputs

/-- FREE. The undriven low nibble of a byte received in 8-bit mode (R205, U4). -/
opaque undriven : Nat → Nibble

/-- FREE. A display state, its cells apart (R207 at power-on, R213 after an unlisted command). -/
opaque freePanel : Nat → Machine.Panel

/-- FREE. The cells of such a display state, by draw and address. -/
opaque freeCell : Nat → Nat → Byte

/-- FREE. The interface state in which the block finds the display (R204). -/
opaque powerOnIfc : Machine.Ifc

/-- FREE. What a reset finds of the display (R204, R262 (a)). -/
opaque displayAtReset : Nat → Machine.DisplayAtReset

/-- FREE. Which command is left out first, second, ... where `N_INIT_CMDS` is below 5: "nothing indicates which command a
count of four would omit" (C1, log 22). -/
opaque initOmitted : Nat → Nat

end Config

end Sys2Proof
end

