-- ==== Sys2Proof/Machine/Operands.lean ====
section
/-! DEFINITION. Operand forms: nibble split, word assembly, cell-address assembly, decimal digits. -/

namespace Sys2Proof.Machine

/-- `hi(v) = v[7:4]` (R95). -/
def hi (v : Byte) : Nibble := v.extractLsb' 4 4

/-- `lo(v) = v[3:0]` (R95). -/
def lo (v : Byte) : Nibble := v.extractLsb' 0 4

/-- `{h, l}` (R95). -/
def join (h l : Nibble) : Byte := h ++ l

/-- The N5 word `{rs, n}` (R91). -/
def n5Word (rs : Bool) (n : Nibble) : BitVec 5 := BitVec.ofBool rs ++ n

/-- The B9 word `{rs, v}` (R92). -/
def b9Word (rs : Bool) (v : Byte) : BitVec 9 := BitVec.ofBool rs ++ v

/-- Bits 3:0 of an N5 word (R91). -/
def n5Nibble (w : BitVec 5) : Nibble := w.extractLsb' 0 4

/-- Bit 8 of a B9 word (R92). -/
def b9Rs (w : BitVec 9) : Bool := w[8]

/-- Bits 7:0 of a B9 word (R92). -/
def b9Value (w : BitVec 9) : Byte := w.extractLsb' 0 8

/-- The set-cell-address command for a 7-bit address: `0x80 + a` (R106). -/
def setAddressCode (a : BitVec 7) : Byte := 0x80#8 + a.setWidth 8

/-- Thousands digit (R114). -/
def d3 (v : Reading) : Nat := v.toNat / 1000

/-- Hundreds digit (R114). -/
def d2 (v : Reading) : Nat := v.toNat % 1000 / 100

/-- Tens digit (R114). -/
def d1 (v : Reading) : Nat := v.toNat % 100 / 10

/-- Units digit (R114). -/
def d0 (v : Reading) : Nat := v.toNat % 10

/-- "A digit `d` becomes the character `0x30 + d`" (R114). -/
def digitChar (d : Nat) : Byte := 0x30#8 + BitVec.ofNat 8 d

/-- A button cell: the letter if pressed, else a space (R115). -/
def buttonChar (letter : Byte) (pressed : Bool) : Byte := if pressed then letter else 0x20#8

/-- The boolean "pressed" of a level (R116). -/
def pressed (c : Config) (level : Bool) : Bool := level == c.btnActive

/-- The channel id of an axis (R62). -/
def channel (c : Config) : Axis → Nat
  | .x => c.chX
  | .y => c.chY

/-- The length in ticks of a named delay (R6, R29). -/
def delayTicks (c : Config) : DelayName → Nat
  | .eHold => c.tEHold
  | .settle => c.tSettle
  | .init => c.tInit
  | .sample => c.tSample
  | .loop => c.tLoop

end Sys2Proof.Machine
end

