-- ==== Sys2Proof/Machine/Params.lean ====
section
/-! DEFINITION. The parameters of the machine that comes out of reset: the defaults of R6, and free values where R6 has
none. -/

namespace Sys2Proof

/-- The defaults of R6. DESIGN CHOICE of the spec where R6 says so (log 4); the five delays and the clock are free. -/
def Config.platform : Config where
  wakeNibble := 0x3
  mode4Nibble := 0x2
  functionSetCode := 0x20
  displayOffCode := 0x08
  clearCode := 0x01
  entryModeCode := 0x06
  displayOnCode := 0x0C
  line2Code := 0xC0
  lineBreak := 0x0A
  term := 0x00
  btn1Letter := 0x41
  btn2Letter := 0x42
  btnActive := true
  chX := 0
  chY := 1
  chW := 4
  snapReset := { x := 0, y := 0, b1 := false, b2 := false }
  tEHold := Config.openEHold + 1
  tSettle := Config.openSettle + 1
  tInit := Config.openInit + 1
  tSample := Config.openSample + 1
  tLoop := Config.openLoop + 1
  nInitCmds := 5
  fClk := Config.openFClk

end Sys2Proof
end

