-- ==== Sys2Proof/Syntax.lean ====
section
/-! DEFINITION. The instructions: the nine words of the display bus, one constructor per row of the opcode table. -/

namespace Sys2Proof

/-- The words the block emits (R96 to R104), all of them (R107). -/
inductive Instr where
  /-- `WAKE`, N5, the "8-bit mode" nibble (R96). -/
  | wake
  /-- `MODE4`, N5, the "switch to 4-bit interface" nibble (R97). -/
  | mode4
  /-- `FUNCTION_SET`, B9, interface width and line count (R98). -/
  | functionSet
  /-- `DISPLAY_OFF`, B9 (R99). -/
  | displayOff
  /-- `CLEAR_DISPLAY`, B9, clear and home (R100). -/
  | clearDisplay
  /-- `ENTRY_MODE`, B9, entry direction (R101). -/
  | entryMode
  /-- `DISPLAY_ON`, B9, display on, cursor off (R102). -/
  | displayOn
  /-- `SET_LINE2`, B9, cursor to the first cell of the second line (R103). -/
  | setLine2
  /-- `WRITE_CHAR c`, B9, character data (R104). -/
  | writeChar (c : Byte)
  deriving DecidableEq, Repr

end Sys2Proof
end

