-- ==== Sys2Proof/Decode.lean ====
section
/-! DEFINITION. From bus words to instructions, total, rejecting by name, and the encoder beside it. The codes are the
parameters of R6; with their defaults the words are those of spec/opcode_table.json. -/

namespace Sys2Proof

open Machine

/-- Why a bus word is no word of the table. -/
inductive DecodeError where
  /-- An N5 word other than `WAKE` and `MODE4`: no other is ever sent (R90, R107). -/
  | notAnInitNibble (w : BitVec 5)
  /-- A command word whose value is none of the six command codes (R107). -/
  | notACommandOfTheBlock (w : BitVec 9)
  deriving DecidableEq, Repr

/-- N5 words (R96, R97). -/
def decodeN5 (c : Config) (w : BitVec 5) : Except DecodeError Instr :=
  if w = n5Word false c.wakeNibble then .ok .wake
  else if w = n5Word false c.mode4Nibble then .ok .mode4
  else .error (.notAnInitNibble w)

/-- The command value of a B9 word with `rs = 0` (R98 to R103). -/
def decodeCommand (c : Config) (v : Byte) : Option Instr :=
  if v = c.functionSetCode then some .functionSet
  else if v = c.displayOffCode then some .displayOff
  else if v = c.clearCode then some .clearDisplay
  else if v = c.entryModeCode then some .entryMode
  else if v = c.displayOnCode then some .displayOn
  else if v = c.line2Code then some .setLine2
  else none

/-- B9 words: `rs = 1` is `WRITE_CHAR` with any value (R104), `rs = 0` a command. -/
def decodeB9 (c : Config) (w : BitVec 9) : Except DecodeError Instr :=
  if b9Rs w then .ok (.writeChar (b9Value w))
  else match decodeCommand c (b9Value w) with
    | some i => .ok i
    | none => .error (.notACommandOfTheBlock w)

/-- The instruction a bus word stands for. -/
def decode (c : Config) : BusWord → Except DecodeError Instr
  | .n5 w => decodeN5 c w
  | .b9 w => decodeB9 c w

/-- The word of an instruction (R96 to R104). -/
def encode (c : Config) : Instr → BusWord
  | .wake => .n5 (n5Word false c.wakeNibble)
  | .mode4 => .n5 (n5Word false c.mode4Nibble)
  | .functionSet => .b9 (b9Word false c.functionSetCode)
  | .displayOff => .b9 (b9Word false c.displayOffCode)
  | .clearDisplay => .b9 (b9Word false c.clearCode)
  | .entryMode => .b9 (b9Word false c.entryModeCode)
  | .displayOn => .b9 (b9Word false c.displayOnCode)
  | .setLine2 => .b9 (b9Word false c.line2Code)
  | .writeChar v => .b9 (b9Word true v)

/-- The bus word of `nbits` table bits `w`, rounded up to whole bytes: one byte holds an N5 word, two a B9 word; the
bits above the format's width are 0 (log 20). -/
def tableWord (nbits w : Nat) : Option BusWord :=
  if nbits ≤ 8 then
    if w < 2 ^ 5 then some (.n5 (BitVec.ofNat 5 w)) else none
  else if nbits ≤ 16 then
    if w < 2 ^ 9 then some (.b9 (BitVec.ofNat 9 w)) else none
  else none

/-- The instruction read from a word of spec/opcode_table.json, with the default codes of R6. -/
def decodeTableWord (nbits w : Nat) : Option Instr :=
  match tableWord nbits w with
  | none => none
  | some bw =>
    match decode Config.platform bw with
    | .ok i => some i
    | .error _ => none

end Sys2Proof
end

