-- ==== Sys2Proof/Machine/Display.lean ====
section
/-! DEFINITION. The reference model of the attached display (43_display_reference_model.md): what one pulse does to it.
The environment's side of the six lines; the block reads none of it (R144). -/

namespace Sys2Proof.Machine

/-- A display state of which nothing is known: the `n`-th free one, its cells in canonical form. -/
def Panel.free (n : Nat) : Panel :=
  { Config.freePanel n with cells := Memory.ofFun cellCap cellBlank (Config.freeCell n) }

namespace Lcd

/-- A command outside R208 to R212: "leaves every other effect unconstrained (any display state may result)" (R213). -/
def unlisted (l : Lcd) : Lcd :=
  { l with panel := Panel.free l.draws, draws := l.draws + 1 }

/-- Clear display (R208). -/
def clear (l : Lcd) : Lcd :=
  { l with panel := { l.panel with cells := [], ac := 0, id := true } }

/-- Entry mode set (R209). -/
def entryMode (v : Byte) (l : Lcd) : Lcd :=
  { l with panel := { l.panel with id := v[1], s := v[0] } }

/-- Display on/off control (R210). -/
def onOff (v : Byte) (l : Lcd) : Lcd :=
  { l with panel := { l.panel with d := v[2], c := v[1], b := v[0] } }

/-- Function set (R211). -/
def functionSet (v : Byte) (l : Lcd) : Lcd :=
  { l with
    ifc := if v[4] then .if8 else .if4Hi
    panel := { l.panel with nl := v[3], f := v[2] } }

/-- Set cell address (R212). -/
def setAddress (v : Byte) (l : Lcd) : Lcd :=
  { l with panel := { l.panel with ac := v.extractLsb' 0 7 } }

/-- Command decode: the highest set bit selects the row of the command table (R105). -/
def command (v : Byte) (l : Lcd) : Lcd :=
  if v[7] then l.setAddress v
  else if v[6] then l.unlisted
  else if v[5] then l.functionSet v
  else if v[4] then l.unlisted
  else if v[3] then l.onOff v
  else if v[2] then l.entryMode v
  else if v = 0x01#8 then l.clear
  else l.unlisted

/-- Character write: store at the cursor, then move it in the entry direction, modulo 128 (R216). DESIGN CHOICE: the same with
`s = 1`, where R216 does not say what becomes of the display window; the model has no window (log 28). -/
def writeChar (v : Byte) (l : Lcd) : Lcd :=
  { l with
    panel := { l.panel with
      cells := Memory.write cellBlank l.panel.cells l.panel.ac.toNat v
      ac := if l.panel.id then l.panel.ac + 1 else l.panel.ac - 1 } }

/-- A complete byte: a command with `rs = 0`, a character with `rs = 1` (R206 (c)). -/
def execute (rs : Bool) (v : Byte) (l : Lcd) : Lcd :=
  if rs then l.writeChar v else l.command v

/-- A byte of which a half was a stray nibble: a function set still sets the interface, by its value (R214), and "every
other effect [is] unconstrained" (R213), a character write included (R214). -/
def executeStray (rs : Bool) (v : Byte) (l : Lcd) : Lcd :=
  { l.unlisted with ifc := (l.execute rs v).ifc }

/-- A complete byte, stray or not. -/
def complete (stray rs : Bool) (v : Byte) (l : Lcd) : Lcd :=
  if stray then l.executeStray rs v else l.execute rs v

/-- One nibble `(rs, n)`, itself `stray` or not. In 8-bit mode it is a whole byte whose low nibble is undriven (R205); in
4-bit mode nibbles pair up, high nibble first (R206), and a byte is stray if a half of it is. -/
def receiveNibble (stray rs : Bool) (n : Nibble) (l : Lcd) : Lcd :=
  match l.ifc with
  | .if8 => { l with draws := l.draws + 1 }.complete stray rs (join n (Config.undriven l.draws))
  | .if4Hi => { l with ifc := .if4Lo n stray }
  | .if4Lo h held => { l with ifc := .if4Hi }.complete (held || stray) rs (join h n)

/-- One pulse `(rs, n)` of the block (R205, R206). -/
def receive (rs : Bool) (n : Nibble) (l : Lcd) : Lcd := l.receiveNibble false rs n

/-- The display at a reset of the block, `e` the level `E` falls from. It is any (R204): a free choice says whether it
kept its state, took a nibble at the fall of a high `E` (R262 (a)), or was just powered. A nibble it holds is stray from
then on. -/
def atReset (e : Bool) (l : Lcd) : Lcd :=
  let found := { l with ifc := l.ifc.strayed, draws := l.draws + 1 }
  match Config.displayAtReset l.draws with
  | .kept => found
  | .latched rs n => if e then found.receiveNibble true rs n else found
  | .repowered i => { found with ifc := i.strayed, panel := Panel.free l.draws }

end Lcd

/-- Line 1 of a glass of `cols` columns, shown when the display is on (R217). DESIGN CHOICE: unshifted, with `s = 1` too
(log 28); and the cells from 0x00 with `nl = 0` too, though some one-line modules show those from 0x40 as the right half of
the single line (log 29). -/
def Panel.line1 (cols : Nat) (p : Panel) : Option (List Byte) :=
  if p.d then some ((List.range cols).map fun i => Memory.read cellBlank p.cells i) else none

/-- Line 2, likewise; with `nl = 0` what the glass does with these cells depends on the module (R217). DESIGN CHOICE: with
`nl = 0` no line 2 is shown (log 29); unshifted, as line 1 (log 28). -/
def Panel.line2 (cols : Nat) (p : Panel) : Option (List Byte) :=
  if p.d && p.nl then some ((List.range cols).map fun i => Memory.read cellBlank p.cells (0x40 + i)) else none

end Sys2Proof.Machine
end

