-- ==== Sys2Proof/Machine/State.lean ====
section
/-! DEFINITION. The state, the ways a step can stop, and the state after reset. -/

namespace Sys2Proof.Machine

/-- Nobody raises a fault: "The block raises no exception" (R230), and the step is total (R33). Safe. -/
inductive Fault where
  deriving DecidableEq, Repr

/-- Why a step has no meaning. -/
inductive Refusal where
  /-- Raised by `exec` for an instruction without a meaning; no arm does. Safe. -/
  | notModelled (mnemonic : String)
  /-- Raised by a tick of phase `TEXT` over a frame with no `TERM` in cells 0 to 19, for which R140 (b) gives no µop
  list and U13 says "refuse". No run from reset meets it. Safe (log 14). -/
  | unterminatedText
  /-- Raised by a tick whose `u` lies outside the list of its phase, which is no control state (R30: "`u` never exceeds
  the length of the current list"). No run from reset meets it. Safe (log 15). -/
  | pcOutsideList
  deriving DecidableEq, Repr

/-- The registers of the block (R20), the reference display (R202, R207), and the model's own fields: parameters, the
inputs to come, the tick number, the interface trace, a word placed from outside. -/
@[ext]
structure State where
  /-- The parameters of R6; no step changes them (log 4). -/
  cfg    : Config
  /-- `lcd_rs` (R22). -/
  lcdRs  : Bool
  /-- `lcd_e` (R22). -/
  lcdE   : Bool
  /-- `lcd_d[3:0]`, bit `i` on `lcd_d[i]` (R22, R63). -/
  lcdD   : Nibble
  /-- `adc_ch` (R23). -/
  adcCh  : Nat
  /-- `cx`, `cy`, `cb1`, `cb2` (R24). -/
  cur    : Readings
  /-- `px`, `py`, `pb1`, `pb2` (R25). -/
  snap   : Readings
  /-- `frame[0..19]` (R26). -/
  frame  : Memory
  /-- `tcount` (R27). -/
  tcount : BitVec 5
  /-- `dly` (R29). -/
  dly    : Nat
  /-- `pc` (R30). -/
  pc     : Pc
  /-- The attached display (43_display_reference_model.md). -/
  lcd    : Lcd
  /-- The input levels of the ticks to come, one entry a tick; free values after them (log 6). -/
  inputs : List Inputs
  /-- Ticks since the model started (log 6). -/
  clock  : Nat
  /-- The interface trace since reset, newest event first (R13). -/
  trace  : List Event
  /-- A bus word placed on the driver from outside the hard-wired sequence (log 2). -/
  call   : Option BusWord
  deriving DecidableEq, Repr

/-- The state after reset (R37). The display is as the block finds it: any (R204). -/
def State.reset : State where
  cfg := Config.platform
  lcdRs := false
  lcdE := false
  lcdD := 0b0000
  adcCh := 0
  cur := { x := 0, y := 0, b1 := false, b2 := false }
  snap := Config.platform.snapReset
  frame := []
  tcount := 0
  dly := 0
  pc := { phase := .init, u := 0 }
  lcd := { ifc := Config.powerOnIfc.strayed, panel := Panel.free 0, draws := 1 }
  inputs := []
  clock := 0
  trace := []
  call := none

end Sys2Proof.Machine
end

