-- ==== Sys2Proof/Machine/Flags.lean ====
section
/-! DEFINITION. The three condition values of the block (R28). None is stored. -/

namespace Sys2Proof.Machine

/-- The bucket of a reading: integer division by ten (R176). -/
def bucket (v : Reading) : Nat := v.toNat / 10

/-- `CHANGED`: axes by bucket of ten, buttons exactly (R176). -/
def changed (cur snap : Readings) : Bool :=
  bucket cur.x != bucket snap.x || bucket cur.y != bucket snap.y || cur.b1 != snap.b1 || cur.b2 != snap.b2

/-- `ready`, exported as `drv_ready`: every phase but `INIT` (R28, R143). -/
def ready (p : Phase) : Bool := p != .init

/-- `done`: the answer to the current `AdcDone()` (R28). -/
def done (inp : Inputs) : Bool := inp.adcDone

end Sys2Proof.Machine
end

