-- ==== Sys2Proof/Machine/Ops.lean ====
section
/-! DEFINITION. The named operations over the state: time and inputs, trace, the display lines, the delay counter,
reset. -/

namespace Sys2Proof.Machine

namespace State

/-- The input levels `k` ticks from now: scheduled, or free (R12). -/
def inputAt (s : State) (k : Nat) : Inputs := s.inputs.getD k (Config.freeInputs (s.clock + k))

/-- The input levels of the present tick. -/
def present (s : State) : Inputs := s.inputAt 0

/-- `n` ticks go by. -/
def elapse (n : Nat) (s : State) : State := { s with inputs := s.inputs.drop n, clock := s.clock + n }

/-- One event of the interface trace (R13). -/
def emit (e : Event) (s : State) : State := { s with trace := e :: s.trace }

/-- `SetRS(l)` (R31). -/
def setRs (l : Bool) (s : State) : State := { s with lcdRs := l }.emit (.pinWrite .rs l)

/-- `SetD(n)` (R31). -/
def setD (n : Nibble) (s : State) : State := { s with lcdD := n }.emit (.dataWrite n)

/-- `SetE(l)` (R31). A fall of `E` is a pulse: the display takes `lcd_rs` and `lcd_d` (R13, R66). -/
def setE (l : Bool) (s : State) : State :=
  { s with
    lcdE := l
    lcd := if s.lcdE && !l then s.lcd.receive s.lcdRs s.lcdD else s.lcd }.emit (.pinWrite .e l)

/-- A `Delay` that begins (its counter is at rest) emits its event (R31). -/
def delayEvent (d : DelayName) (s : State) : State := if s.dly = 0 then s.emit (.delay d) else s

/-- `dly` after one tick of `Delay(P)`: `P-1` on entry, else one less (R29). -/
def delayNext (d : DelayName) (s : State) : Nat := if s.dly = 0 then delayTicks s.cfg d - 1 else s.dly - 1

/-- One tick of `Delay(P)` (R29). -/
def delayTick (d : DelayName) (s : State) : State := { s.delayEvent d with dly := s.delayNext d }

/-- Ticks a `Delay(P)` still takes: `P` on entry, else what the counter holds (R29). DESIGN CHOICE: the first `Delay` of a
word placed while `dly` is not 0, a case the spec does not have, takes what the counter holds (log 26). -/
def delayLeft (d : DelayName) (s : State) : Nat := if s.dly = 0 then delayTicks s.cfg d else s.dly

/-- All the ticks a `Delay(P)` still takes. DESIGN CHOICE: entered with `dly` not 0, which only a placed word does, it makes
no event of its own and leaves `dly` 0 (log 26). -/
def delayAll (d : DelayName) (s : State) : State := { s.delayEvent d with dly := 0 }.elapse (s.delayLeft d)

/-- `drv_ready` (R21, R28). -/
def drvReady (s : State) : Bool := ready s.pc.phase

/-- Reset, the only forced change of control (R242): every register of the block takes its value of R37 and a new
trace begins (R13). What becomes of the display is open (R204). -/
def applyReset (s : State) : State :=
  { State.reset with
    cfg := s.cfg
    snap := s.cfg.snapReset
    lcd := s.lcd.atReset s.lcdE
    inputs := s.inputs
    clock := s.clock
    call := s.call }

end State

/-- One µop of a transfer, with all its ticks (R31). -/
def BusOp.run (op : BusOp) (s : State) : State :=
  match op with
  | .setRs l => (s.setRs l).elapse 1
  | .setD n => (s.setD n).elapse 1
  | .setE l => (s.setE l).elapse 1
  | .delay d => s.delayAll d

/-- A list of them, in order (R14). -/
def runBus : List BusOp → State → State
  | [], s => s
  | op :: rest, s => runBus rest (op.run s)

/-- The ticks of one µop of a transfer (R31). -/
def BusOp.ticks (c : Config) : BusOp → Nat
  | .setRs _ => 1
  | .setD _ => 1
  | .setE _ => 1
  | .delay d => delayTicks c d

/-- The ticks of a list of them. -/
def busTicks (c : Config) : List BusOp → Nat
  | [] => 0
  | op :: rest => op.ticks c + busTicks c rest

end Sys2Proof.Machine
end

