-- ==== Sys2Proof/Machine/Driver.lean ====
section
/-! DEFINITION. The Display Driver: the µop lists of its operations (40_display_driver.md). -/

namespace Sys2Proof.Machine

/-- `NIBBLE(n)`, 5 µops (R130). -/
def nibbleOps (n : Nibble) : List BusOp :=
  [.setD n, .setE true, .delay .eHold, .setE false, .delay .settle]

/-- `BYTE(rs, v)`, 11 µops, high nibble first (R132). -/
def byteOps (rs : Bool) (v : Byte) : List BusOp :=
  .setRs rs :: (nibbleOps (hi v) ++ nibbleOps (lo v))

/-- `CMD(c)` (R133). -/
def cmdOps (v : Byte) : List BusOp := byteOps false v

/-- `DATA(b)`, 22 µops: the byte, then the entry-mode command (R134). -/
def dataOps (c : Config) (v : Byte) : List BusOp := byteOps true v ++ cmdOps c.entryModeCode

/-- The µop list of each word (R130, R132): what the hard-wired lists are made of. -/
def wordOps (c : Config) : Instr → List BusOp
  | .wake => nibbleOps c.wakeNibble
  | .mode4 => nibbleOps c.mode4Nibble
  | .functionSet => cmdOps c.functionSetCode
  | .displayOff => cmdOps c.displayOffCode
  | .clearDisplay => cmdOps c.clearCode
  | .entryMode => cmdOps c.entryModeCode
  | .displayOn => cmdOps c.displayOnCode
  | .setLine2 => cmdOps c.line2Code
  | .writeChar v => byteOps true v

/-- One step of initialisation: a transfer and the delay after it (R136). -/
def initStep (ops : List BusOp) : List BusOp := ops ++ [.delay .init]

/-- A list with `k` entries left out, which ones is free. -/
def omitFree : Nat → List Instr → List Instr
  | 0, l => l
  | k + 1, l => omitFree k (l.eraseIdx (Config.initOmitted k % l.length))

/-- The two-nibble commands of `INIT`: the five listed, in order (R135), with `N_INIT_CMDS` 5; with a lower count, that
many of them (C1, D7, log 22). -/
def initCommands (c : Config) : List Instr :=
  omitFree (5 - c.nInitCmds) [.functionSet, .displayOff, .clearDisplay, .entryMode, .displayOn]

/-- The words of `INIT`: three wake nibbles, one mode-switch nibble, the commands (R135). -/
def initWords (c : Config) : List Instr := [.wake, .wake, .wake, .mode4] ++ initCommands c

/-- `INIT()`: `SetRS(0)`, then each word and the delay after it; 85 µops with five commands (R136). -/
def initOps (c : Config) : List BusOp :=
  .setRs false :: (initWords c).flatMap fun i => initStep (wordOps c i)

/-- `CLEAR()` (R142). -/
def clearOps (c : Config) : List BusOp := cmdOps c.clearCode

/-- Character dispatch: the marker is replaced by the second-line command, everything else is data (R139). -/
def charOps (c : Config) (ch : Byte) : List BusOp :=
  if ch = c.lineBreak then cmdOps c.line2Code else dataOps c ch

/-- The text of a frame: its cells before the first `TERM`; none if there is no `TERM` (R140). -/
def frameText (c : Config) (f : Memory) : Option (List Byte) :=
  let cells := (List.range frameCap).map (Memory.read frameBlank f)
  if c.term ∈ cells then some (cells.takeWhile (· != c.term)) else none

/-- The display part of `TEXT`: one dispatch a character, in order (R140). -/
def textBusOps (c : Config) (text : List Byte) : List BusOp := text.flatMap (charOps c)

/-- `TEXT(frame)` for the text of a frame: the characters, then `TextEnd(n)` with `n` their count (R140). -/
def textOps (c : Config) (text : List Byte) : List MicroOp :=
  (textBusOps c text).map .bus ++ [.textEnd text.length]

/-- The framing of any bus word, which "does not look at the value" (R108): an N5 word is one `NIBBLE`, a B9 word one
`BYTE`. -/
def transmitOps : BusWord → List BusOp
  | .n5 w => nibbleOps (n5Nibble w)
  | .b9 w => byteOps (b9Rs w) (b9Value w)

/-- `TextEnd(n)`: `tcount <- n` (R31, R27). -/
def State.textEnd (n : Nat) (s : State) : State := { s with tcount := BitVec.ofNat 5 n }

end Sys2Proof.Machine
end

