-- ==== Sys2Proof/Machine/CommandWords.lean ====
section
/-! DEFINITION. The meanings of the six command words: one `CMD` each (R98 to R103, R133). -/

namespace Sys2Proof.Machine

/-- `FUNCTION_SET` (R98). -/
def execFunctionSet (s : State) : Host.Outcome State Fault Refusal := .next (runBus (cmdOps s.cfg.functionSetCode) s)

/-- `DISPLAY_OFF` (R99). -/
def execDisplayOff (s : State) : Host.Outcome State Fault Refusal := .next (runBus (cmdOps s.cfg.displayOffCode) s)

/-- `CLEAR_DISPLAY` (R100). -/
def execClearDisplay (s : State) : Host.Outcome State Fault Refusal := .next (runBus (cmdOps s.cfg.clearCode) s)

/-- `ENTRY_MODE` (R101). -/
def execEntryMode (s : State) : Host.Outcome State Fault Refusal := .next (runBus (cmdOps s.cfg.entryModeCode) s)

/-- `DISPLAY_ON` (R102). -/
def execDisplayOn (s : State) : Host.Outcome State Fault Refusal := .next (runBus (cmdOps s.cfg.displayOnCode) s)

/-- `SET_LINE2` (R103). -/
def execSetLine2 (s : State) : Host.Outcome State Fault Refusal := .next (runBus (cmdOps s.cfg.line2Code) s)

end Sys2Proof.Machine
end

