-- ==== Sys2Proof/Machine/DataWords.lean ====
section
/-! DEFINITION. The meaning of the data word: one `BYTE` with mode-select high (R104, R132). The entry-mode command that
follows every data byte in the hard-wired sequence is a word of its own (R117, log 18). -/

namespace Sys2Proof.Machine

/-- `WRITE_CHAR c` (R104). -/
def execWriteChar (c : Byte) (s : State) : Host.Outcome State Fault Refusal := .next (runBus (byteOps true c) s)

end Sys2Proof.Machine
end

