-- ==== Sys2Proof/Machine/InitWords.lean ====
section
/-! DEFINITION. The meanings of the two single-nibble words: one `NIBBLE` each (R96, R97, R130). `lcd_rs` is not
rewritten (R91). -/

namespace Sys2Proof.Machine

/-- `WAKE` (R96). -/
def execWake (s : State) : Host.Outcome State Fault Refusal := .next (runBus (nibbleOps s.cfg.wakeNibble) s)

/-- `MODE4` (R97). -/
def execMode4 (s : State) : Host.Outcome State Fault Refusal := .next (runBus (nibbleOps s.cfg.mode4Nibble) s)

end Sys2Proof.Machine
end

