-- ==== Sys2Proof/Machine/Dispatch.lean ====
section
/-! DEFINITION. One arm per word. -/

namespace Sys2Proof.Machine

def exec (i : Instr) (s : State) : Host.Outcome State Fault Refusal :=
  match i with
  | .wake => Sys2Proof.Machine.execWake s
  | .mode4 => Sys2Proof.Machine.execMode4 s
  | .functionSet => Sys2Proof.Machine.execFunctionSet s
  | .displayOff => Sys2Proof.Machine.execDisplayOff s
  | .clearDisplay => Sys2Proof.Machine.execClearDisplay s
  | .entryMode => Sys2Proof.Machine.execEntryMode s
  | .displayOn => Sys2Proof.Machine.execDisplayOn s
  | .setLine2 => Sys2Proof.Machine.execSetLine2 s
  | .writeChar c => Sys2Proof.Machine.execWriteChar c s

end Sys2Proof.Machine
end

