-- ==== Sys2Proof/Machine/Sampler.lean ====
section
/-! DEFINITION. The Input Sampler: its µop lists and the effect of its µops (41_input_sampler.md). -/

namespace Sys2Proof.Machine

/-- `SAMPLE_AXIS(ch, r)`, 6 µops (R162). -/
def sampleAxisOps (c : Config) (r : Axis) : List MicroOp :=
  [.adcSel (channel c r), .adcSample, .bus (.delay .sample), .adcConvert, .adcPoll, .adcRead r]

/-- `SAMPLE_BUTTONS()`: button 1, then button 2 (R166). -/
def sampleButtonsOps : List MicroOp := [.readBtn .one, .readBtn .two]

namespace State

/-- `AdcSel(c)` (R31). -/
def adcSel (c : Nat) (s : State) : State := { s with adcCh := c }.emit (.adcSelect c)

/-- `AdcRead(r)`: the raw 10-bit answer (R31, R165). -/
def adcRead (r : Axis) (v : Reading) (s : State) : State :=
  { s with cur := match r with
    | .x => { s.cur with x := v }
    | .y => { s.cur with y := v } }.emit (.adcResult v)

/-- `ReadBtn(k)` (R31, R166). -/
def readBtn (k : Button) (level : Bool) (s : State) : State :=
  { s with cur := match k with
    | .one => { s.cur with b1 := pressed s.cfg level }
    | .two => { s.cur with b2 := pressed s.cfg level } }.emit (.pinRead k level)

end State

/-- The level on a button's pin (R10). -/
def Inputs.button (inp : Inputs) : Button → Bool
  | .one => inp.btn1
  | .two => inp.btn2

end Sys2Proof.Machine
end

