-- ==== Sys2Proof/Machine/Refresh.lean ====
section
/-! DEFINITION. The Refresh Controller: the frame, the snapshot update, the phase lists and the order of the phases
(42_refresh_controller.md). -/

namespace Sys2Proof.Machine

/-- The 20 cells of a frame, in order (R112). -/
def formatCells (c : Config) (r : Readings) : List Byte :=
  [0x78#8, 0x3A#8, 0x20#8, digitChar (d3 r.x), digitChar (d2 r.x), digitChar (d1 r.x), digitChar (d0 r.x), c.lineBreak,
    0x79#8, 0x3A#8, 0x20#8, digitChar (d3 r.y), digitChar (d2 r.y), digitChar (d1 r.y), digitChar (d0 r.y), 0x20#8,
    buttonChar c.btn1Letter r.b1, buttonChar c.btn2Letter r.b2, c.term, 0x00#8]

/-- `FORMAT`: the frame buffer of four readings (R178). -/
def format (c : Config) (r : Readings) : Memory :=
  Memory.ofFun frameCap frameBlank fun i => (formatCells c r).getD i frameBlank

/-- `Update`: snapshot and frame in one step (R181, R70 (b)). -/
def State.update (s : State) : State := { s with snap := s.cur, frame := format s.cfg s.cur }

/-- `THROTTLE` (R184). -/
def throttleOps : List MicroOp := [.bus (.delay .loop)]

/-- The µop list of a phase (R32). `TEXT` has none over a frame without `TERM` (R140 (b)). -/
def phaseOps (c : Config) (f : Memory) : Phase → Option (List MicroOp)
  | .init => some ((initOps c).map .bus)
  | .sampleX => some (sampleAxisOps c .x)
  | .sampleY => some (sampleAxisOps c .y)
  | .buttons => some sampleButtonsOps
  | .decide => some [.decide]
  | .update => some [.update]
  | .clear => some ((clearOps c).map .bus)
  | .text => (frameText c f).map (textOps c)
  | .throttle => some throttleOps

/-- The phase that follows (R32); `Decide` chooses on `changed` (R180). -/
def nextPhase (chg : Bool) : Phase → Phase
  | .init => .sampleX
  | .sampleX => .sampleY
  | .sampleY => .buttons
  | .buttons => .decide
  | .decide => if chg then .update else .throttle
  | .update => .clear
  | .clear => .text
  | .text => .throttle
  | .throttle => .sampleX

/-- Where control stands `n` µops further in a list of `len` (R30, R188 (a), (b)). -/
def pcAfter (len n : Nat) (chg : Bool) (pc : Pc) : Pc :=
  if pc.u + n < len then { pc with u := pc.u + n } else { phase := nextPhase chg pc.phase, u := 0 }

/-- `REFRESH`: `CLEAR` then `TEXT` (R182). -/
def refreshOps (c : Config) (text : List Byte) : List MicroOp := (clearOps c).map .bus ++ textOps c text

/-- `ITERATION`, each poll counted once: the unchanged path, and the changed path with the text written (R185). -/
def iterationOps (c : Config) (written : Option (List Byte)) : List MicroOp :=
  sampleAxisOps c .x ++ (sampleAxisOps c .y ++ (sampleButtonsOps ++ ([.decide] ++
    ((match written with
      | none => []
      | some text => .update :: refreshOps c text) ++ throttleOps))))

end Sys2Proof.Machine
end

