-- ==== Sys2Proof/Machine/Tick.lean ====
section
/-! DEFINITION. One clock tick of the hard-wired sequence (R33). -/

namespace Sys2Proof.Machine

/-- One tick of one µop of a transfer (R31). -/
def BusOp.perform (op : BusOp) (s : State) : State :=
  match op with
  | .setRs l => s.setRs l
  | .setD n => s.setD n
  | .setE l => s.setE l
  | .delay d => s.delayTick d

/-- The register writes and the event of one tick of a µop (R31). -/
def MicroOp.perform (op : MicroOp) (inp : Inputs) (s : State) : State :=
  match op with
  | .bus b => b.perform s
  | .adcSel c => s.adcSel c
  | .adcSample => s.emit .adcStartSample
  | .adcConvert => s.emit .adcStopSampleStartConvert
  | .adcPoll => s.emit (.adcDone (done inp))
  | .adcRead r => s.adcRead r inp.adcResult
  | .readBtn k => s.readBtn k (inp.button k)
  | .decide => s
  | .update => s.update
  | .textEnd n => s.textEnd n

/-- Whether the µop stays: a `Delay` whose counter has not reached 0, an `AdcPoll` answered 0 (R30). -/
def MicroOp.holds (op : MicroOp) (inp : Inputs) (s : State) : Bool :=
  match op with
  | .bus (.delay d) => s.delayNext d != 0
  | .adcPoll => !done inp
  | _ => false

/-- The tick of a µop in a list of `len`: its writes, its event, and the move of `pc`, all together (R9, R30). -/
def MicroOp.tick (op : MicroOp) (len : Nat) (inp : Inputs) (s : State) : State :=
  { op.perform inp s with
    pc := if op.holds inp s then s.pc else pcAfter len 1 (changed s.cur s.snap) s.pc }

/-- The µop list of the present phase. -/
def State.ops (s : State) : Option (List MicroOp) := phaseOps s.cfg s.frame s.pc.phase

/-- The µop at `pc`. -/
def State.currentOp (s : State) : Option MicroOp := s.ops.bind (·[s.pc.u]?)

/-- The step relation of R33: reset if `rst`, else one tick of the µop at `pc`. -/
def tick (inp : Inputs) (s : State) : Host.Outcome State Fault Refusal :=
  if inp.rst then .next (s.applyReset.elapse 1)
  else
    match s.ops with
    | none => .refused .unterminatedText
    | some ops =>
      match ops[s.pc.u]? with
      | none => .refused .pcOutsideList
      | some op => .next ((op.tick ops.length inp s).elapse 1)

end Sys2Proof.Machine
end

