-- ==== Sys2Proof/Machine/Step.lean ====
section
/-! DEFINITION. One step. -/

namespace Sys2Proof.Machine

/-- A word placed from outside the sequence is taken from its place and runs whole: what it decodes to, or, if it is no
word of the table, its framing (R108). Otherwise one clock tick of the hard-wired sequence under the present inputs
(R33). -/
def step (s : State) : Host.Outcome State Fault Refusal :=
  match s.call with
  | none => tick s.present s
  | some w =>
    match decode s.cfg w with
    | .ok i => exec i { s with call := none }
    | .error _ => .next (runBus (transmitOps w) { s with call := none })

/-- The state with a word of the opcode table placed, so that the next step runs it (log 2). -/
def State.withFetchWord (s : State) (nbits w : Nat) : State := { s with call := tableWord nbits w }

end Sys2Proof.Machine
end

