-- ==== Sys2Proof/Machine/Ports.lean ====
section
/-! DEFINITION. The output ports that are functions of the current µop, and the views of the interface trace. -/

namespace Sys2Proof.Machine

/-- The four converter strobes of R21. -/
structure Strobes where
  sel     : Bool
  sample  : Bool
  convert : Bool
  read    : Bool
  deriving DecidableEq, Repr

/-- Each strobe is high for the one tick of its µop (R21), "functions of the current µop". DESIGN CHOICE: it follows the
µop at `pc` whatever `rst` is, and whether or not a word is placed, though under `rst` no event is made (log 25). -/
def State.strobes (s : State) : Strobes :=
  match s.currentOp with
  | some (.adcSel _) => ⟨true, false, false, false⟩
  | some .adcSample => ⟨false, true, false, false⟩
  | some .adcConvert => ⟨false, false, true, false⟩
  | some (.adcRead _) => ⟨false, false, false, true⟩
  | _ => ⟨false, false, false, false⟩

/-- One entry of the pulse list: the levels of `RS` and of `D7..D4` at a fall of `E` (R66). -/
abbrev Pulse := Bool × Nibble

/-- The level of `RS` after a trace, newest event first, from the reset level 0. -/
def traceRs : List Event → Bool
  | [] => false
  | .pinWrite .rs l :: _ => l
  | _ :: rest => traceRs rest

/-- The level of `E` after a trace. -/
def traceE : List Event → Bool
  | [] => false
  | .pinWrite .e l :: _ => l
  | _ :: rest => traceE rest

/-- The nibble on the data lines after a trace. -/
def traceD : List Event → Nibble
  | [] => 0
  | .dataWrite n :: _ => n
  | _ :: rest => traceD rest

/-- The pulse list of a trace, newest first, both: one entry per fall of `E` (R13, R66). -/
def pulsesNewestFirst : List Event → List Pulse
  | [] => []
  | .pinWrite .e false :: rest =>
    if traceE rest then (traceRs rest, traceD rest) :: pulsesNewestFirst rest else pulsesNewestFirst rest
  | _ :: rest => pulsesNewestFirst rest

/-- The pulse list of a run since reset, in order (R66). -/
def State.pulses (s : State) : List Pulse := (pulsesNewestFirst s.trace).reverse

/-- Pulses taken two at a time (R94). -/
def pairTransfers : List Pulse → List BusWord
  | (rs, h) :: (_, l) :: rest => .b9 (b9Word rs (join h l)) :: pairTransfers rest
  | _ => []

/-- The transfer list of a pulse list from reset: four N5 transfers, then B9 transfers (R94). -/
def transfers (pulses : List Pulse) : List BusWord :=
  (pulses.take 4).map (fun p => .n5 (n5Word p.1 p.2)) ++ pairTransfers (pulses.drop 4)

/-- The pulses of one bus word: for N5 under the level `RS` has, for B9 under the word's own (R91, R92). -/
def wordPulses (rs : Bool) : BusWord → List Pulse
  | .n5 w => [(rs, n5Nibble w)]
  | .b9 w => [(b9Rs w, hi (b9Value w)), (b9Rs w, lo (b9Value w))]

end Sys2Proof.Machine
end

