-- ==== Sys2Proof/WellFormed.lean ====
section
/-! DEFINITION. Well-formed instructions and well-formed parameters. -/

namespace Sys2Proof

/-- Every term of `Instr` is well formed: the one operand, the character of `WRITE_CHAR`, is "any 8-bit value"
(R104) and is typed at that width. -/
def Instr.wf : Instr → Bool
  | .wake => true
  | .mode4 => true
  | .functionSet => true
  | .displayOff => true
  | .clearDisplay => true
  | .entryMode => true
  | .displayOn => true
  | .setLine2 => true
  | .writeChar _ => true

namespace Config

/-- `FUNCTION_SET_CODE[7:4] == 0b0010`: a function set with the 4-bit interface (R6, R98). DESIGN CHOICE: bits 1:0 may be
anything, as R6 and the collected constraints have it, though D9 asks for `0b0010xx00` and U16 says they are sent as 0
(log 27). -/
abbrev functionSetFor4Bit (c : Config) : Prop := c.functionSetCode.extractLsb' 4 4 = 0b0010#4

/-- The two channel ids are distinct and fit `CH_W` bits (R6, R62). -/
abbrev channelsFit (c : Config) : Prop := c.chX ≠ c.chY ∧ c.chX < 2 ^ c.chW ∧ c.chY < 2 ^ c.chW

/-- Every delay is at least 1 (R6, D10). -/
abbrev delaysPositive (c : Config) : Prop :=
  1 ≤ c.tEHold ∧ 1 ≤ c.tSettle ∧ 1 ≤ c.tInit ∧ 1 ≤ c.tSample ∧ 1 ≤ c.tLoop

/-- The marker, the terminator and the button letters do not collide (R141, 92_eei_decisions.md). -/
abbrev lettersPlain (c : Config) : Prop :=
  c.btn1Letter ≠ c.lineBreak ∧ c.btn1Letter ≠ c.term ∧ c.btn2Letter ≠ c.lineBreak ∧ c.btn2Letter ≠ c.term ∧
    c.lineBreak ≠ c.term

/-- Marker and terminator are none of the fixed characters of a frame: `x`, `y`, `:`, space, a digit (R113, R141). -/
abbrev markersPlain (c : Config) : Prop :=
  ∀ k ∈ [c.lineBreak, c.term],
    k ∉ [0x78#8, 0x79#8, 0x3A#8, 0x20#8, 0x30#8, 0x31#8, 0x32#8, 0x33#8, 0x34#8, 0x35#8, 0x36#8, 0x37#8, 0x38#8, 0x39#8]

/-- At most the five commands there are: the source lists five and counts four (C1, D7). -/
abbrev initCountFits (c : Config) : Prop := c.nInitCmds ≤ 5

/-- The constraints 92_eei_decisions.md collects, `initCountFits`, and `markersPlain`, which its defaults meet. -/
abbrev wf (c : Config) : Prop :=
  c.functionSetFor4Bit ∧ c.channelsFit ∧ c.delaysPositive ∧ c.lettersPlain ∧ c.markersPlain ∧ c.initCountFits

/-- The nibbles and the command codes are told apart by their values, as the standard ones are. Decoding needs it;
the spec does not ask it of other parameter values. -/
abbrev codesDistinct (c : Config) : Prop :=
  c.wakeNibble ≠ c.mode4Nibble ∧
    [c.functionSetCode, c.displayOffCode, c.clearCode, c.entryModeCode, c.displayOnCode, c.line2Code].Nodup

/-- The defaults of R6 for the nibbles and codes that the reference display is asked to understand (R96 to R103).
The function set is left at either of its values, by `functionSetFor4Bit`. -/
abbrev codesStandard (c : Config) : Prop :=
  c.wakeNibble = 0x3#4 ∧ c.mode4Nibble = 0x2#4 ∧ c.displayOffCode = 0x08#8 ∧ c.clearCode = 0x01#8 ∧
    c.entryModeCode = 0x06#8 ∧ c.displayOnCode = 0x0C#8 ∧ c.line2Code = 0xC0#8

end Config

end Sys2Proof
end

