-- ==== Sys2Proof/Safety.lean ====
section
/-! DEFINITION. The terms claims are stated in: runs, frames, the invariant of the block, tick counts, and the platform's
timing obligations. -/

namespace Sys2Proof.Machine

/-- `n` steps of the machine. -/
def run (n : Nat) (s : State) : Host.Outcome State Fault Refusal := Host.Core.run Sys2Proof.core n s

/-- `rst` is low for the next `n` ticks. -/
def State.rstLow (n : Nat) (s : State) : Prop := ∀ k, k < n → (s.inputAt k).rst = false

/-- What a transfer leaves alone: every register of the block but the display lines and `dly`, and every frame cell. -/
def sameButDriver (s t : State) : Prop :=
  t.cfg = s.cfg ∧ t.adcCh = s.adcCh ∧ t.cur = s.cur ∧ t.snap = s.snap ∧
    (∀ a, Memory.read frameBlank t.frame a = Memory.read frameBlank s.frame a) ∧
    t.tcount = s.tcount ∧ t.pc = s.pc ∧ t.call = s.call

/-- Ticks of one `NIBBLE` (R280). -/
def nibbleTicks (c : Config) : Nat := 3 + c.tEHold + c.tSettle

/-- Ticks of one `BYTE` (R280). -/
def byteTicks (c : Config) : Nat := 1 + 2 * nibbleTicks c

/-- Ticks of `INIT` (R280), where the 5 is `N_INIT_CMDS`. -/
def initTicks (c : Config) : Nat := 1 + 4 * (nibbleTicks c + c.tInit) + c.nInitCmds * (byteTicks c + c.tInit)

/-- Ticks of `REFRESH` (R280). -/
def refreshTicks (c : Config) : Nat := 36 * byteTicks c + 1

/-- The events of one `NIBBLE`, newest first (R130). -/
def nibbleTrace (n : Nibble) : List Event :=
  [.delay .settle, .pinWrite .e false, .delay .eHold, .pinWrite .e true, .dataWrite n]

/-- Ticks of a word: one `NIBBLE` or one `BYTE` (R280). -/
def wordTicks (c : Config) : BusWord → Nat
  | .n5 _ => nibbleTicks c
  | .b9 _ => byteTicks c

/-- The event of each µop of a transfer (R31). -/
def BusOp.event : BusOp → Event
  | .setRs l => .pinWrite .rs l
  | .setD n => .dataWrite n
  | .setE l => .pinWrite .e l
  | .delay d => .delay d

/-- What one `NIBBLE(n)` leaves (R130): the lines, the pulse taken by the display, the events, everything else as it
was. -/
def nibbleDone (n : Nibble) (s t : State) : Prop :=
  t.lcdD = n ∧ t.lcdE = false ∧ t.lcdRs = s.lcdRs ∧ t.dly = 0 ∧
    t.lcd = s.lcd.receive s.lcdRs n ∧
    (s.dly = 0 → t.trace = nibbleTrace n ++ s.trace) ∧
    sameButDriver s t

/-- What one `BYTE(rs, v)` leaves (R132). -/
def byteDone (rs : Bool) (v : Byte) (s t : State) : Prop :=
  t.lcdRs = rs ∧ t.lcdE = false ∧ t.lcdD = lo v ∧ t.dly = 0 ∧
    t.lcd = (s.lcd.receive rs (hi v)).receive rs (lo v) ∧
    (s.dly = 0 → t.trace = nibbleTrace (lo v) ++ (nibbleTrace (hi v) ++ .pinWrite .rs rs :: s.trace)) ∧
    sameButDriver s t

/-- The level of `E` after a list of µops. -/
def levelAfter (e : Bool) : List MicroOp → Bool
  | [] => e
  | .bus (.setE l) :: rest => levelAfter l rest
  | _ :: rest => levelAfter e rest

/-- The invariant of the block's own runs: what every state reachable from reset satisfies, whatever the inputs. -/
structure Inv (s : State) : Prop where
  /-- Nothing is placed from outside. -/
  idle : s.call = none
  /-- The parameters meet their constraints. -/
  params : s.cfg.wf
  /-- The frame buffer is in canonical form. -/
  frameWf : Memory.wf frameCap frameBlank s.frame
  /-- The display's cells are in canonical form. -/
  cellsWf : Memory.wf cellCap cellBlank s.lcd.panel.cells
  /-- The channel register fits its width (R23). -/
  channelFits : s.adcCh < 2 ^ s.cfg.chW
  /-- `pc` points at a µop of its phase (R30). -/
  control : ∃ ops, s.ops = some ops ∧ s.pc.u < ops.length
  /-- `dly` runs only inside a `Delay`, below its length (R29). -/
  counter : s.dly ≠ 0 → ∃ d, s.currentOp = some (.bus (.delay d)) ∧ s.dly < delayTicks s.cfg d
  /-- `E` is where the µops of the phase so far have put it, from low (R268). -/
  enable : ∀ ops, s.ops = some ops → s.lcdE = levelAfter false (ops.take s.pc.u)
  /-- The lines are at the levels the trace last gave them. -/
  lines : traceRs s.trace = s.lcdRs ∧ traceE s.trace = s.lcdE ∧ traceD s.trace = s.lcdD
  /-- The frame shows the snapshot (R183), or nothing was updated yet and no text is being written. -/
  shown : s.frame = format s.cfg s.snap ∨ (s.frame = [] ∧ s.pc.phase ≠ .clear ∧ s.pc.phase ≠ .text)

/-- The block just out of reset (R37), parameters and surroundings apart. -/
def outOfReset (s : State) : Prop :=
  s.lcdRs = false ∧ s.lcdE = false ∧ s.lcdD = 0 ∧ s.dly = 0 ∧ s.pc = { phase := .init, u := 0 } ∧ s.trace = [] ∧
    s.call = none

/-- The reference display after `INIT` and after every refresh, contents and cursor apart (R215, R218). -/
def Lcd.ready (l : Lcd) : Prop :=
  l.ifc = .if4Hi ∧ l.panel.id = true ∧ l.panel.s = false ∧ l.panel.d = true ∧ l.panel.c = false ∧ l.panel.b = false

/-- The pulses of `INIT`, those of its words under `RS` low: 14 with five commands (R136). -/
def initPulses (c : Config) : List Pulse := (initWords c).flatMap fun i => wordPulses false (encode c i)

/-- What a reset from level `e` of `E` can make of the display (R204, R262): it kept its state; it took a nibble at the fall
of a high `E`; or it is in a state of which nothing is known. A nibble it holds is stray. -/
def Lcd.foundAtReset (e : Bool) (l l' : Lcd) : Prop :=
  (l'.ifc = l.ifc.strayed ∧ l'.panel = l.panel) ∨
    (e = true ∧ ∃ rs n, l' = { l with ifc := l.ifc.strayed, draws := l.draws + 1 }.receiveNibble true rs n) ∨
    ∃ i : Ifc, l'.ifc = i.strayed ∧ l'.panel = Panel.free l.draws

/-- Obligation of the platform: a wait of `n` ticks lasts at least `ns` nanoseconds. -/
def waits (c : Config) (n ns : Nat) : Prop := ns * c.fClk ≤ n * 1000000000

/-- The same, "more than" `ns` nanoseconds. -/
def waitsMore (c : Config) (n ns : Nat) : Prop := ns * c.fClk < n * 1000000000

/-- The datasheet figures the platform's delays must cover: enable width and set-up, which depend on the supply (230 and
80 ns, or 450 and 195 ns: R270); the slowest command (R271); "more than" 4.1 ms after the first wake nibble and 100 µs after
the second (R272); and "more than" the power-on wait (15 or 40 ms) for which `rst` is held after the display's power-up,
`held` ticks of it (R272, R266 (d)). Nothing in the step reads it. -/
def meetsDatasheet (c : Config) (enableNs setupNs powerOnNs held : Nat) : Prop :=
  waits c (c.tEHold + 1) enableNs ∧ waits c 1 setupNs ∧ waits c (c.tSettle + 3) 1520000 ∧
    waitsMore c (c.tSettle + c.tInit + 2) 4100000 ∧ waitsMore c (c.tSettle + c.tInit + 2) 100000 ∧
    waitsMore c held powerOnNs

end Sys2Proof.Machine
end

