-- ==== Sys2Proof/Certificates/Slice0/Obligations.lean ====
section
/-! DEFINITION. The statements for the provers. -/

open Sys2Proof Sys2Proof.Machine

/-! ### Encoding -/

/-- Decoding the word of a well-formed instruction gives it back, whatever the code parameters, as long as they tell the
words apart (R91, R92, R96 to R104). The distinctness of the codes is the model's premise (log 20). -/
def Obligations.DecodeOfEncode : Prop :=
  ∀ (c : Config) (i : Instr), c.codesDistinct → i.wf = true → decode c (encode c i) = .ok i

/-- A word that decodes is the word of what it decodes to: no word has two meanings, no bit is dropped. -/
def Obligations.EncodeOfDecode : Prop :=
  ∀ (c : Config) (w : BusWord) (i : Instr), decode c w = .ok i → encode c i = w

/-- Six words of the opcode table, bit by bit: those of WAKE, MODE4, FUNCTION_SET, CLEAR_DISPLAY, SET_LINE2 and
WRITE_CHAR 0x78, under the default codes (the spec's decisions D8 and, for FUNCTION_SET, D9; log 4). That 8 table bits are an
N5 word and 16 a B9 word is the model's choice (log 20). -/
def Obligations.TableWordsDecode : Prop :=
  decodeTableWord 8 0b00011 = some .wake ∧ decodeTableWord 8 0b00010 = some .mode4 ∧
    decodeTableWord 16 0b000100000 = some .functionSet ∧ decodeTableWord 16 0b000000001 = some .clearDisplay ∧
    decodeTableWord 16 0b011000000 = some .setLine2 ∧ decodeTableWord 16 0b101111000 = some (.writeChar 0x78#8)

/-- The pulses an instruction makes are the bits of its word: an N5 nibble under the level `RS` has (R91); `v[7:4]`, then
`v[3:0]`, under one `rs` (R92, R64). That one `exec` runs the whole word is the model's choice (log 1). -/
def Obligations.PulsesAreTheWord : Prop :=
  ∀ (i : Instr) (s : State), traceRs s.trace = s.lcdRs →
    ∃ t, exec i s = .next t ∧
      pulsesNewestFirst t.trace = (wordPulses s.lcdRs (encode s.cfg i)).reverse ++ pulsesNewestFirst s.trace

/-! ### Framing, and the instructions completing -/

/-- R130. `NIBBLE(n)` from `E` low: `lcd_d <- n`, `E` up and down, the five events, one pulse `(lcd_rs, n)`, `lcd_rs` not
written, and everything else unchanged. -/
def Obligations.NibbleTransfer : Prop :=
  ∀ (n : Nibble) (s : State), s.lcdE = false → s.dly = 0 → traceRs s.trace = s.lcdRs →
    nibbleDone n s (runBus (nibbleOps n) s) ∧
      pulsesNewestFirst (runBus (nibbleOps n) s).trace = (s.lcdRs, n) :: pulsesNewestFirst s.trace

/-- R132. `BYTE(rs, v)`: mode-select written once, before the first pulse; high nibble, then low nibble; the exit levels;
everything else unchanged. -/
def Obligations.ByteTransfer : Prop :=
  ∀ (rs : Bool) (v : Byte) (s : State), s.dly = 0 →
    byteDone rs v s (runBus (byteOps rs v) s) ∧
      pulsesNewestFirst (runBus (byteOps rs v) s).trace = (rs, lo v) :: (rs, hi v) :: pulsesNewestFirst s.trace

/-- R134. `DATA(b)`: the data byte, then the entry-mode command; four pulses; `lcd_rs` written 1, then 0; everything else
unchanged. -/
def Obligations.DataTransfer : Prop :=
  ∀ (b : Byte) (s : State), s.dly = 0 →
    ∃ m, byteDone true b s m ∧ byteDone false s.cfg.entryModeCode m (runBus (dataOps s.cfg b) s) ∧
      pulsesNewestFirst (runBus (dataOps s.cfg b) s).trace =
        (false, lo s.cfg.entryModeCode) :: (false, hi s.cfg.entryModeCode) :: (true, lo b) :: (true, hi b) ::
          pulsesNewestFirst s.trace

/-- `WAKE` and `MODE4` complete in every state: one `NIBBLE` of the parameter, `lcd_rs` not rewritten (R91, R96, R97). -/
def Obligations.InitWordsComplete : Prop :=
  ∀ s : State,
    (∃ t, exec .wake s = .next t ∧ nibbleDone s.cfg.wakeNibble s t) ∧
      ∃ t, exec .mode4 s = .next t ∧ nibbleDone s.cfg.mode4Nibble s t

/-- The six command words complete in every state: one command `BYTE` of the parameter (R98 to R103, R133). -/
def Obligations.CommandWordsComplete : Prop :=
  ∀ s : State,
    (∃ t, exec .functionSet s = .next t ∧ byteDone false s.cfg.functionSetCode s t) ∧
    (∃ t, exec .displayOff s = .next t ∧ byteDone false s.cfg.displayOffCode s t) ∧
    (∃ t, exec .clearDisplay s = .next t ∧ byteDone false s.cfg.clearCode s t) ∧
    (∃ t, exec .entryMode s = .next t ∧ byteDone false s.cfg.entryModeCode s t) ∧
    (∃ t, exec .displayOn s = .next t ∧ byteDone false s.cfg.displayOnCode s t) ∧
    ∃ t, exec .setLine2 s = .next t ∧ byteDone false s.cfg.line2Code s t

/-- `WRITE_CHAR c` completes in every state for every `c`: one data `BYTE` (R104). -/
def Obligations.WriteCharCompletes : Prop :=
  ∀ (c : Byte) (s : State), ∃ t, exec (.writeChar c) s = .next t ∧ byteDone true c s t

/-- Ticks of the words: one `NIBBLE` for an N5 word, one `BYTE` for a B9 word (R280, the spec's own mapping D2). -/
def Obligations.WordsTakeTheirTicks : Prop :=
  ∀ (i : Instr) (s : State), s.dly = 0 →
    ∃ t, exec i s = .next t ∧ t.clock = s.clock + wordTicks s.cfg (encode s.cfg i) ∧
      t.inputs = s.inputs.drop (wordTicks s.cfg (encode s.cfg i))

/-- A word of any value, of the table or not, runs when it is placed: "the framing does not look at the value" (R108).
That a word can be placed from outside is the model's choice (log 2, log 3). -/
def Obligations.AnyWordIsFramed : Prop :=
  ∀ (rs : Bool) (s : State),
    (∀ v : Byte, s.call = some (.b9 (b9Word rs v)) →
      ∃ t, step s = .next t ∧ byteDone rs v { s with call := none } t) ∧
    ∀ n : Nibble, s.call = some (.n5 (n5Word rs n)) →
      ∃ t, step s = .next t ∧ nibbleDone n { s with call := none } t

/-! ### What the words do to the display -/

/-- `CLEAR_DISPLAY` with its default code, received at a byte boundary (R208): every cell blank, cursor home, forward; a
second one changes nothing more. -/
def Obligations.ClearDisplayBlanksAndHomes : Prop :=
  ∀ s : State, s.cfg.clearCode = 0x01#8 → s.lcd.ifc = .if4Hi →
    ∃ t, exec .clearDisplay s = .next t ∧
      (∀ a, Memory.read cellBlank t.lcd.panel.cells a = 0x20#8) ∧
      t.lcd = { s.lcd with panel := { s.lcd.panel with cells := t.lcd.panel.cells, ac := 0, id := true } } ∧
      ∃ t', exec .clearDisplay t = .next t' ∧ t'.lcd = t.lcd

/-- `ENTRY_MODE` with any entry-mode code (R209): `I/D` and `S` set, everything else kept. -/
def Obligations.EntryModeSetsDirection : Prop :=
  ∀ s : State, s.cfg.entryModeCode.extractLsb' 2 6 = 0b000001#6 → s.lcd.ifc = .if4Hi →
    ∃ t, exec .entryMode s = .next t ∧
      t.lcd = { s.lcd with panel := { s.lcd.panel with
        id := s.cfg.entryModeCode[1], s := s.cfg.entryModeCode[0] } }

/-- `DISPLAY_OFF` and `DISPLAY_ON` with their default codes (R210): `D`, `C`, `B` set, the cells kept. -/
def Obligations.DisplayControlSwitches : Prop :=
  ∀ s : State, s.cfg.displayOffCode = 0x08#8 → s.cfg.displayOnCode = 0x0C#8 → s.lcd.ifc = .if4Hi →
    (∃ t, exec .displayOff s = .next t ∧
      t.lcd = { s.lcd with panel := { s.lcd.panel with d := false, c := false, b := false } }) ∧
    ∃ t, exec .displayOn s = .next t ∧
      t.lcd = { s.lcd with panel := { s.lcd.panel with d := true, c := false, b := false } }

/-- `FUNCTION_SET` with any 4-bit function-set code (R98, R211): the interface stays 4-bit at a byte boundary, line and
font bits set, everything else kept. -/
def Obligations.FunctionSetKeepsFourBits : Prop :=
  ∀ s : State, s.cfg.functionSetFor4Bit → s.lcd.ifc = .if4Hi →
    ∃ t, exec .functionSet s = .next t ∧
      t.lcd = { s.lcd with panel := { s.lcd.panel with
        nl := s.cfg.functionSetCode[3], f := s.cfg.functionSetCode[2] } }

/-- `SET_LINE2` with its default code (R103, R106, R212): the cursor goes to cell 0x40, everything else kept. -/
def Obligations.SetLine2MovesCursor : Prop :=
  ∀ s : State, s.cfg.line2Code = setAddressCode 0x40#7 → s.lcd.ifc = .if4Hi →
    ∃ t, exec .setLine2 s = .next t ∧ t.lcd = { s.lcd with panel := { s.lcd.panel with ac := 0x40#7 } }

/-- `WRITE_CHAR c` (R216): `c` in the cell under the cursor, every other cell as before, the cursor one on in the entry
direction modulo 128, everything else kept. -/
def Obligations.WriteCharStoresAndMoves : Prop :=
  ∀ (c : Byte) (s : State), s.lcd.ifc = .if4Hi → Memory.wf cellCap cellBlank s.lcd.panel.cells →
    ∃ t, exec (.writeChar c) s = .next t ∧
      Memory.read cellBlank t.lcd.panel.cells s.lcd.panel.ac.toNat = c ∧
      (∀ a, a ≠ s.lcd.panel.ac.toNat →
        Memory.read cellBlank t.lcd.panel.cells a = Memory.read cellBlank s.lcd.panel.cells a) ∧
      t.lcd.panel.ac.toNat = (if s.lcd.panel.id then (s.lcd.panel.ac.toNat + 1) % 128 else (s.lcd.panel.ac.toNat + 127) % 128) ∧
      t.lcd = { s.lcd with panel := { s.lcd.panel with cells := t.lcd.panel.cells, ac := t.lcd.panel.ac } }

/-- The two N5 words in 8-bit mode under `RS` low (R205, R211): a wake nibble leaves 8-bit mode, the mode-switch nibble
goes to a byte boundary of 4-bit mode; both touch only the line and font bits beside, which are whatever the undriven
lines carry. -/
def Obligations.InitNibblesInEightBitMode : Prop :=
  ∀ s : State, s.cfg.wakeNibble = 0x3#4 → s.cfg.mode4Nibble = 0x2#4 → s.lcdRs = false → s.lcd.ifc = .if8 →
    (∃ t, exec .wake s = .next t ∧ t.lcd.ifc = .if8 ∧
      t.lcd.panel = { s.lcd.panel with nl := t.lcd.panel.nl, f := t.lcd.panel.f }) ∧
    ∃ t, exec .mode4 s = .next t ∧ t.lcd.ifc = .if4Hi ∧
      t.lcd.panel = { s.lcd.panel with nl := t.lcd.panel.nl, f := t.lcd.panel.f }

/-- R214. From every interface state and every display state, `WAKE ; WAKE ; WAKE ; MODE4` under `RS` low leave the
display in 4-bit mode at a byte boundary. -/
def Obligations.WakeSequenceResynchronises : Prop :=
  ∀ s : State, s.cfg.wakeNibble = 0x3#4 → s.cfg.mode4Nibble = 0x2#4 → s.lcdRs = false →
    ∃ s1 s2 s3 t, exec .wake s = .next s1 ∧ exec .wake s1 = .next s2 ∧ exec .wake s2 = .next s3 ∧
      exec .mode4 s3 = .next t ∧ t.lcd.ifc = .if4Hi

/-- A byte of which a reset left a half behind (R213, R214): `WAKE` under `RS` low over a stray nibble `h` completes
`{h, 3}`. The interface goes where that byte sends it; the display state is a free one, whatever it was and whatever command the
byte is. That a held nibble knows it is stray is the model's own (log 8). -/
def Obligations.StrayByteLeavesDisplayOpen : Prop :=
  ∀ (s : State) (h : Nibble), s.cfg.wakeNibble = 0x3#4 → s.lcdRs = false → s.lcd.ifc = .if4Lo h true →
    ∃ t, exec .wake s = .next t ∧ t.lcd.ifc = (if h = 0x3#4 then .if8 else .if4Hi) ∧
      t.lcd.panel = Panel.free s.lcd.draws

/-- `INIT` sends four nibbles and `N_INIT_CMDS` commands, which keep the order of the five of R135, and are the five where the
count is 5 (R6, R135, C1; that a lower count sends some of the five is log 22). -/
def Obligations.InitCommandsAreCounted : Prop :=
  ∀ c : Config, c.initCountFits →
    initWords c = [.wake, .wake, .wake, .mode4] ++ initCommands c ∧ (initCommands c).length = c.nInitCmds ∧
      (initCommands c).Sublist [.functionSet, .displayOff, .clearDisplay, .entryMode, .displayOn] ∧
      (c.nInitCmds = 5 → initCommands c = [.functionSet, .displayOff, .clearDisplay, .entryMode, .displayOn])

/-! ### The step -/

/-- A placed word that decodes runs: the step is `exec` of what it decodes to, at the state with the word taken from its
place, and nothing is added. Placing is the model's choice (log 2). -/
def Obligations.StepRunsPlacedInstruction : Prop :=
  ∀ (s : State) (w : BusWord) (i : Instr), s.call = some w → decode s.cfg w = .ok i → i.wf = true →
    step s = exec i { s with call := none }

/-- With nothing placed and `rst` low, a step is one tick of the µop at `pc`: its writes, its event, the move of `pc`
(R30, R33). -/
def Obligations.StepPerformsOneTick : Prop :=
  ∀ (s : State) (ops : List MicroOp) (op : MicroOp), s.call = none → s.present.rst = false → s.ops = some ops →
    ops[s.pc.u]? = some op → step s = .next ((op.tick ops.length s.present s).elapse 1)

/-- `rst` high at a tick: every register of the block takes its value of R37 from any state, a new trace begins, the
parameters stay; at the next tick with `rst` low the block performs `SetRS(0)` (R33, R260, R261). The display is any of those a
reset can find, a nibble only if `E` falls (R204, R262). The values are the spec's own decisions D3, D6, D13, D22. -/
def Obligations.ResetFromAnyState : Prop :=
  ∀ s : State, s.call = none → s.present.rst = true →
    ∃ t, step s = .next t ∧ outOfReset t ∧ t.adcCh = 0 ∧ t.cur = { x := 0, y := 0, b1 := false, b2 := false } ∧
      t.snap = s.cfg.snapReset ∧ (∀ a, Memory.read frameBlank t.frame a = 0x00#8) ∧ t.tcount = 0 ∧
      t.drvReady = false ∧ t.cfg = s.cfg ∧ s.lcd.foundAtReset s.lcdE t.lcd ∧
      (t.present.rst = false →
        ∃ t', step t = .next t' ∧ t'.trace = [.pinWrite .rs false] ∧ t'.pc = { phase := .init, u := 1 })

/-- The state after reset is the table of R37 with the default snapshot; the display and the five delays are free. -/
def Obligations.ResetState : Prop :=
  outOfReset State.reset ∧ State.reset.adcCh = 0 ∧ State.reset.tcount = 0 ∧
    State.reset.cur = { x := 0, y := 0, b1 := false, b2 := false } ∧
    State.reset.snap = { x := 0, y := 0, b1 := false, b2 := false } ∧
    (∀ a, Memory.read frameBlank State.reset.frame a = 0x00#8) ∧ State.reset.drvReady = false

/-- The instructions reach the hard-wired sequence. Wherever the list of a phase goes on with the µops of a word, running
their ticks is executing the word, and `pc` moves past them: `exec` and the tick relation agree, for every word, every
parameter, every input with `rst` low (R30, R31, R33, R280). -/
def Obligations.SequenceRunsWords : Prop :=
  ∀ (i : Instr) (s : State) (ops rest : List MicroOp),
    s.call = none → s.cfg.delaysPositive → s.dly = 0 → s.ops = some ops →
    ops.drop s.pc.u = (wordOps s.cfg i).map .bus ++ rest → s.rstLow (busTicks s.cfg (wordOps s.cfg i)) →
    ∃ t, exec i s = .next t ∧
      run (busTicks s.cfg (wordOps s.cfg i)) s =
        .next { t with pc := pcAfter ops.length (wordOps s.cfg i).length (changed s.cur s.snap) s.pc }

/-- A `Delay(P)` holds `pc` for `P - 1` ticks, counting down, and leaves at the `P`-th with the counter at 0; it makes one
event and changes nothing else (R29, R30). The model's own are the reading of "on entry" (log 9) and that the event stands in
the trace from the first tick on (log 10). -/
def Obligations.DelayOccupiesItsTicks : Prop :=
  ∀ (s : State) (d : DelayName) (ops : List MicroOp),
    s.call = none → 1 ≤ delayTicks s.cfg d → s.dly = 0 → s.ops = some ops → ops[s.pc.u]? = some (.bus (.delay d)) →
    s.rstLow (delayTicks s.cfg d) →
    (∀ j, 0 < j → j < delayTicks s.cfg d →
      run j s = .next ({ s.emit (.delay d) with dly := delayTicks s.cfg d - j }.elapse j)) ∧
    run (delayTicks s.cfg d) s =
      .next ({ s.emit (.delay d) with
        pc := pcAfter ops.length 1 (changed s.cur s.snap) s.pc }.elapse (delayTicks s.cfg d))

/-! ### The sampler -/

/-- R164. While `AdcDone()` answers 0 the poll repeats, one poll a tick, for as long as it answers 0, and nothing but the
trace changes; when it answers 1 control goes on. -/
def Obligations.PollRepeatsUntilDone : Prop :=
  ∀ (s : State) (ops : List MicroOp) (n : Nat),
    s.call = none → s.ops = some ops → ops[s.pc.u]? = some .adcPoll →
    (s.rstLow n → (∀ k, k < n → (s.inputAt k).adcDone = false) →
      run n s = .next ({ s with trace := List.replicate n (Event.adcDone false) ++ s.trace }.elapse n)) ∧
    (s.present.rst = false → s.present.adcDone = true →
      step s = .next ({ s.emit (.adcDone true) with
        pc := pcAfter ops.length 1 (changed s.cur s.snap) s.pc }.elapse 1))

/-- R162. `SAMPLE_AXIS`, for both axes, the converter answering `k` polls with 0 and the next with 1: the events in order,
the channel, the raw result in its register, every other register and every display line unchanged, after
`4 + T_SAMPLE + (k + 1)` ticks. -/
def Obligations.SampleAxisReadsTheConverter : Prop :=
  ∀ (r : Axis) (s : State) (k : Nat),
    s.call = none → s.cfg.delaysPositive → s.dly = 0 →
    s.pc = { phase := match r with | .x => .sampleX | .y => .sampleY, u := 0 } →
    s.rstLow (s.cfg.tSample + k + 5) →
    (∀ j, j < k → (s.inputAt (s.cfg.tSample + 3 + j)).adcDone = false) →
    (s.inputAt (s.cfg.tSample + 3 + k)).adcDone = true →
    run (s.cfg.tSample + k + 5) s = .next ({ s with
      adcCh := channel s.cfg r
      cur := match r with
        | .x => { s.cur with x := (s.inputAt (s.cfg.tSample + k + 4)).adcResult }
        | .y => { s.cur with y := (s.inputAt (s.cfg.tSample + k + 4)).adcResult }
      pc := { phase := match r with | .x => .sampleY | .y => .buttons, u := 0 }
      trace := .adcResult (s.inputAt (s.cfg.tSample + k + 4)).adcResult :: .adcDone true ::
        (List.replicate k (Event.adcDone false) ++ (Event.adcStopSampleStartConvert :: Event.delay .sample ::
          Event.adcStartSample :: Event.adcSelect (channel s.cfg r) :: s.trace)) }.elapse (s.cfg.tSample + k + 5))

/-- R166. `SAMPLE_BUTTONS`: button 1 at one tick, button 2 at the next, each compared with `BTN_ACTIVE`; nothing else
changes. -/
def Obligations.SampleButtonsReadsLevels : Prop :=
  ∀ s : State, s.call = none → s.pc = { phase := .buttons, u := 0 } → s.rstLow 2 →
    run 2 s = .next ({ s with
      cur := { s.cur with
        b1 := (s.inputAt 0).btn1 == s.cfg.btnActive, b2 := (s.inputAt 1).btn2 == s.cfg.btnActive }
      pc := { phase := .decide, u := 0 }
      trace := .pinRead .two (s.inputAt 1).btn2 :: .pinRead .one (s.inputAt 0).btn1 :: s.trace }.elapse 2)

/-! ### The refresh controller -/

/-- R176. The change detector: axes by quotient of ten, buttons exactly. -/
def Obligations.ChangedComparesBuckets : Prop :=
  ∀ c p : Readings, changed c p = true ↔
    c.x.toNat / 10 ≠ p.x.toNat / 10 ∨ c.y.toNat / 10 ≠ p.y.toNat / 10 ∨ c.b1 ≠ p.b1 ∨ c.b2 ≠ p.b2

/-- "Unchanged" is an equivalence relation (R177 (b), C4). -/
def Obligations.UnchangedIsEquivalence : Prop :=
  Equivalence fun a b : Readings => changed a b = false

/-- R180. `Decide` goes to `UPDATE` or to `THROTTLE` and changes nothing but `pc`; no event. -/
def Obligations.DecideBranchesOnChanged : Prop :=
  ∀ s : State, s.call = none → s.present.rst = false → s.pc = { phase := .decide, u := 0 } →
    step s = .next ({ s with
      pc := { phase := if changed s.cur s.snap then .update else .throttle, u := 0 } }.elapse 1)

/-- R181. `Update` writes the snapshot and the 20 cells in one step and goes to `CLEAR`; nothing else changes; no event. -/
def Obligations.UpdateWritesSnapshotAndFrame : Prop :=
  ∀ s : State, s.call = none → s.present.rst = false → s.pc = { phase := .update, u := 0 } →
    ∃ t, step s = .next t ∧
      (∀ j, j < frameCap → some (Memory.read frameBlank t.frame j) = (formatCells s.cfg s.cur)[j]?) ∧
      t = { s with snap := s.cur, frame := t.frame, pc := { phase := .clear, u := 0 } }.elapse 1

/-- R184. `THROTTLE`: `Delay(T_LOOP)`, then back to `SAMPLE_X`; nothing else changes. -/
def Obligations.ThrottleReturnsToSampling : Prop :=
  ∀ s : State, s.call = none → 1 ≤ s.cfg.tLoop → s.dly = 0 → s.pc = { phase := .throttle, u := 0 } →
    s.rstLow s.cfg.tLoop →
    run s.cfg.tLoop s =
      .next ({ s.emit (.delay .loop) with pc := { phase := .sampleX, u := 0 } }.elapse s.cfg.tLoop)

/-- R112. The 20 cells of a frame, index by index. -/
def Obligations.FrameLayout : Prop :=
  ∀ (c : Config) (r : Readings),
    (List.range frameCap).map (Memory.read frameBlank (format c r)) =
      [0x78#8, 0x3A#8, 0x20#8,
        0x30#8 + BitVec.ofNat 8 (r.x.toNat / 1000), 0x30#8 + BitVec.ofNat 8 (r.x.toNat % 1000 / 100),
        0x30#8 + BitVec.ofNat 8 (r.x.toNat % 100 / 10), 0x30#8 + BitVec.ofNat 8 (r.x.toNat % 10),
        c.lineBreak,
        0x79#8, 0x3A#8, 0x20#8,
        0x30#8 + BitVec.ofNat 8 (r.y.toNat / 1000), 0x30#8 + BitVec.ofNat 8 (r.y.toNat % 1000 / 100),
        0x30#8 + BitVec.ofNat 8 (r.y.toNat % 100 / 10), 0x30#8 + BitVec.ofNat 8 (r.y.toNat % 10),
        0x20#8,
        if r.b1 then c.btn1Letter else 0x20#8, if r.b2 then c.btn2Letter else 0x20#8, c.term, 0x00#8]

/-- R114. The digits, their ranges, the round trip, and the character of a digit. -/
def Obligations.DigitsRoundTrip : Prop :=
  ∀ v : Reading,
    d3 v = v.toNat / 1000 ∧ d2 v = v.toNat % 1000 / 100 ∧ d1 v = v.toNat % 100 / 10 ∧ d0 v = v.toNat % 10 ∧
      d3 v ≤ 1 ∧ d2 v ≤ 9 ∧ d1 v ≤ 9 ∧ d0 v ≤ 9 ∧ d3 v * 1000 + d2 v * 100 + d1 v * 10 + d0 v = v.toNat ∧
      ∀ d, d ≤ 9 → (digitChar d).toNat = 0x30 + d

/-! ### Text -/

/-- R139, in the list of `TEXT` (R140) over any buffer: with `n` the least index of a `TERM`, each cell before it is
dispatched in order, the marker as the second-line command and not as data, every other value as data; then
`TextEnd(n)`. -/
def Obligations.TextDispatchesCharacters : Prop :=
  ∀ (c : Config) (f : Memory) (n : Nat), n < frameCap → Memory.read frameBlank f n = c.term →
    (∀ i, i < n → Memory.read frameBlank f i ≠ c.term) →
    phaseOps c f .text = some (((List.range n).flatMap fun i =>
      if Memory.read frameBlank f i = c.lineBreak then cmdOps c.line2Code
      else dataOps c (Memory.read frameBlank f i)).map MicroOp.bus ++ [.textEnd n])

/-- Over a buffer without `TERM` a tick of `TEXT` refuses by name: the model's choice (log 14), which R140 (b) and U13
allow. -/
def Obligations.UnterminatedTextRefused : Prop :=
  ∀ s : State, s.call = none → s.present.rst = false → s.pc.phase = .text →
    (∀ n, n < frameCap → Memory.read frameBlank s.frame n ≠ s.cfg.term) →
    step s = .refused .unterminatedText

/-- The text of a frame of the block is its 18 characters, the marker at index 7 and nowhere else; `TEXT` has 386 µops and
`35 * BYT + 1` ticks, `REFRESH` 397 µops, an iteration that refreshes 414 (R141, R182, R185, R280). -/
def Obligations.BlockTextSize : Prop :=
  ∀ (c : Config) (r : Readings), c.wf →
    ∃ text, frameText c (format c r) = some text ∧ text = (formatCells c r).take 18 ∧ text.length = 18 ∧
      (∀ i, i < 18 → (text[i]? = some c.lineBreak ↔ i = 7)) ∧ (textOps c text).length = 386 ∧
      (refreshOps c text).length = 397 ∧ (iterationOps c (some text)).length = 414 ∧
      busTicks c (textBusOps c text) + 1 = 35 * byteTicks c + 1

/-- `TextEnd(n)` stores the count and ends the refresh; after a frame of the block it is 18 (R27, R140). -/
def Obligations.TextEndStoresCount : Prop :=
  ∀ s : State, s.call = none → s.present.rst = false → s.cfg.wf → s.frame = format s.cfg s.snap →
    s.pc = { phase := .text, u := 385 } →
    step s = .next ({ s with tcount := 18#5, pc := { phase := .throttle, u := 0 } }.elapse 1)

/-- Lengths and tick counts of the operations, `INIT` for every count of commands (R32, R182, R185, R280; C1). -/
def Obligations.OperationSizes : Prop :=
  ∀ (c : Config) (n : Nibble) (rs : Bool) (v : Byte) (text : List Byte),
    (nibbleOps n).length = 5 ∧ busTicks c (nibbleOps n) = 3 + c.tEHold + c.tSettle ∧
      (byteOps rs v).length = 11 ∧ busTicks c (byteOps rs v) = 7 + 2 * (c.tEHold + c.tSettle) ∧
      (dataOps c v).length = 22 ∧ busTicks c (dataOps c v) = 2 * byteTicks c ∧
      (c.initCountFits → (initOps c).length = 25 + 12 * c.nInitCmds ∧ busTicks c (initOps c) = initTicks c) ∧
      (c.nInitCmds = 5 → (initOps c).length = 85) ∧
      (iterationOps c none).length = 16 ∧
      (c.lineBreak ∉ text → (textOps c text).length = 22 * text.length + 1)

/-! ### Runs -/

/-- R136, R137, R263. From the state out of reset, with `rst` low, `INIT` takes its ticks, makes exactly its events and
the pulses of its words in order, and leaves the block at `(SAMPLE_X, 0)` with `drv_ready` up and every other register as it
was. With the five commands of R135 these are the nine words and their 14 pulses; which commands a lower count sends is free
(log 22). -/
def Obligations.InitRunsToReady : Prop :=
  ∀ s : State, outOfReset s → s.cfg.delaysPositive → s.cfg.initCountFits → s.rstLow (initTicks s.cfg) →
    ∃ t, run (initTicks s.cfg) s = .next t ∧ t.pc = { phase := .sampleX, u := 0 } ∧ t.drvReady = true ∧
      t.lcdRs = false ∧ t.lcdE = false ∧ t.dly = 0 ∧
      t.trace.reverse = (initOps s.cfg).map BusOp.event ∧ t.pulses = initPulses s.cfg ∧
      t.pulses.length = 4 + 2 * s.cfg.nInitCmds ∧ transfers t.pulses = (initWords s.cfg).map (encode s.cfg) ∧
      (s.cfg.nInitCmds = 5 → t.lcdD = lo s.cfg.displayOnCode ∧
        transfers t.pulses = [Instr.wake, .wake, .wake, .mode4, .functionSet, .displayOff, .clearDisplay, .entryMode,
          .displayOn].map (encode s.cfg)) ∧
      t.adcCh = s.adcCh ∧ t.cur = s.cur ∧ t.snap = s.snap ∧ t.frame = s.frame ∧ t.tcount = s.tcount ∧ t.cfg = s.cfg

/-- R215. Whatever the display was, after `INIT` with its five commands and the standard codes it is in 4-bit mode at a byte
boundary, blank, on, without cursor or blink, the cursor at 0, forward entry, no shift, line and font bits as the function set
says. -/
def Obligations.InitLeavesDisplayKnown : Prop :=
  ∀ s : State, outOfReset s → s.cfg.wf → s.cfg.codesStandard → s.cfg.nInitCmds = 5 → s.rstLow (initTicks s.cfg) →
    ∃ t, run (initTicks s.cfg) s = .next t ∧ t.lcd.ready ∧
      (∀ a, Memory.read cellBlank t.lcd.panel.cells a = 0x20#8) ∧ t.lcd.panel.ac = 0 ∧
      t.lcd.panel.nl = s.cfg.functionSetCode[3] ∧ t.lcd.panel.f = s.cfg.functionSetCode[2]

/-- R218. A refresh writes the frame on the display: line 1 is cells 0 to 6, line 2 is cells 8 to 17, everything else
blank, the cursor at 0x4A; the block ends in `THROTTLE` with `tcount` 18 and its other registers unchanged. -/
def Obligations.RefreshShowsTheFrame : Prop :=
  ∀ s : State, s.call = none → s.cfg.wf → s.cfg.codesStandard → s.dly = 0 → s.pc = { phase := .clear, u := 0 } →
    s.frame = format s.cfg s.snap → s.lcd.ready → s.rstLow (refreshTicks s.cfg) →
    ∃ t, run (refreshTicks s.cfg) s = .next t ∧ t.pc = { phase := .throttle, u := 0 } ∧ t.tcount = 18#5 ∧
      t.lcdRs = false ∧ t.lcdE = false ∧ t.dly = 0 ∧
      t.adcCh = s.adcCh ∧ t.cur = s.cur ∧ t.snap = s.snap ∧ t.frame = s.frame ∧ t.cfg = s.cfg ∧
      t.lcd.ready ∧ t.lcd.panel.ac = 0x4A#7 ∧
      ∀ a, Memory.read cellBlank t.lcd.panel.cells a =
        if a < 7 then Memory.read frameBlank s.frame a
        else if 0x40 ≤ a ∧ a < 0x4A then Memory.read frameBlank s.frame (8 + (a - 0x40))
        else 0x20#8

/-- R185, R189. One iteration up to its branch, from `(SAMPLE_X, 0)`, the converter answering `kx` and `ky` polls with 0:
the four readings of their ticks, then `UPDATE` or `THROTTLE` on whether they differ from the snapshot; no display line
moves, no pulse is made, snapshot and frame stay. -/
def Obligations.IterationSamplesThenBranches : Prop :=
  ∀ (s : State) (kx ky : Nat) (r : Readings),
    let x0 := s.cfg.tSample + 3
    let y0 := x0 + kx + 2 + s.cfg.tSample + 3
    let b0 := y0 + ky + 2
    s.call = none → s.cfg.delaysPositive → s.dly = 0 → s.pc = { phase := .sampleX, u := 0 } → s.rstLow (b0 + 3) →
    (∀ j, j < kx → (s.inputAt (x0 + j)).adcDone = false) → (s.inputAt (x0 + kx)).adcDone = true →
    (∀ j, j < ky → (s.inputAt (y0 + j)).adcDone = false) → (s.inputAt (y0 + ky)).adcDone = true →
    r = { x := (s.inputAt (x0 + kx + 1)).adcResult, y := (s.inputAt (y0 + ky + 1)).adcResult,
          b1 := (s.inputAt b0).btn1 == s.cfg.btnActive, b2 := (s.inputAt (b0 + 1)).btn2 == s.cfg.btnActive } →
    ∃ t, run (b0 + 3) s = .next t ∧
      t.pc = { phase := if changed r s.snap then .update else .throttle, u := 0 } ∧ t.cur = r ∧ t.snap = s.snap ∧
      t.frame = s.frame ∧ t.tcount = s.tcount ∧ t.dly = 0 ∧ t.lcd = s.lcd ∧ t.lcdRs = s.lcdRs ∧ t.lcdE = s.lcdE ∧
      t.lcdD = s.lcdD ∧ t.pulses = s.pulses

/-! ### Whole-machine rules -/

/-- The invariant holds after reset. -/
def Obligations.InvariantAtReset : Prop := Inv State.reset

/-- Every step keeps the invariant, under every input, reset at any tick included (R29, R30, R183, R262, R268). -/
def Obligations.StepKeepsInvariant : Prop := ∀ s t : State, Inv s → step s = .next t → Inv t

/-- From a state of the invariant a step always answers a next state: "never a fault and never a refusal" (R230, R33). -/
def Obligations.InvariantNeverStops : Prop := ∀ s : State, Inv s → ∃ t, step s = .next t

/-- Both memories keep their canonical form under every step, placed words included. -/
def Obligations.StepKeepsMemoriesCanonical : Prop :=
  ∀ s t : State, Memory.wf frameCap frameBlank s.frame → Memory.wf cellCap cellBlank s.lcd.panel.cells →
    step s = .next t → Memory.wf frameCap frameBlank t.frame ∧ Memory.wf cellCap cellBlank t.lcd.panel.cells

/-- No step changes a parameter. -/
def Obligations.StepKeepsParameters : Prop := ∀ s t : State, step s = .next t → t.cfg = s.cfg

/-- R268. While `rst` is low, the data lines and the mode-select line change only at a tick with `E` low before and after. -/
def Obligations.LinesMoveOnlyWhileEnableLow : Prop :=
  ∀ s t : State, Inv s → s.present.rst = false → step s = .next t → t.lcdD ≠ s.lcdD ∨ t.lcdRs ≠ s.lcdRs →
    s.lcdE = false ∧ t.lcdE = false

/-- R183. Once the frame shows the snapshot it does so after every step that is no reset, placed words included. -/
def Obligations.FrameKeepsShowingSnapshot : Prop :=
  ∀ s t : State, s.frame = format s.cfg s.snap → (s.call = none → s.present.rst = false) → step s = .next t →
    t.frame = format t.cfg t.snap

/-- Which phases write which registers (R36). -/
def Obligations.RegistersWrittenInTheirPhases : Prop :=
  ∀ s t : State, s.call = none → s.present.rst = false → step s = .next t →
    (t.adcCh ≠ s.adcCh → s.pc.phase = .sampleX ∨ s.pc.phase = .sampleY) ∧
    (t.cur.x ≠ s.cur.x → s.pc.phase = .sampleX) ∧
    (t.cur.y ≠ s.cur.y → s.pc.phase = .sampleY) ∧
    (t.cur.b1 ≠ s.cur.b1 ∨ t.cur.b2 ≠ s.cur.b2 → s.pc.phase = .buttons) ∧
    (t.snap ≠ s.snap ∨ t.frame ≠ s.frame → s.pc.phase = .update) ∧
    (t.tcount ≠ s.tcount → s.pc.phase = .text) ∧
    (t.lcdRs ≠ s.lcdRs ∨ t.lcdE ≠ s.lcdE ∨ t.lcdD ≠ s.lcdD ∨ t.lcd ≠ s.lcd →
      s.pc.phase = .init ∨ s.pc.phase = .clear ∨ s.pc.phase = .text) ∧
    (t.dly ≠ s.dly → s.pc.phase ≠ .buttons ∧ s.pc.phase ≠ .decide ∧ s.pc.phase ≠ .update)

/-- Where control can go in one tick (R188): it holds, moves to the next µop, or enters the next phase of R32; `INIT` is
never entered but by reset (R28, R186). -/
def Obligations.ControlMovesByThePhaseTable : Prop :=
  ∀ s t : State, s.call = none → s.present.rst = false → step s = .next t →
    (t.pc = s.pc ∨ t.pc = { phase := s.pc.phase, u := s.pc.u + 1 } ∨
      t.pc = { phase := nextPhase (changed s.cur s.snap) s.pc.phase, u := 0 }) ∧
    (s.drvReady = true → t.drvReady = true)

/-- R144. "The driver reads nothing": what the display is makes no difference to anything but the display. -/
def Obligations.BlockIgnoresTheDisplay : Prop :=
  ∀ (s t : State) (l : Lcd), step s = .next t → ∃ l', step { s with lcd := l } = .next { t with lcd := l' }

/-- R241 (b). "An input is looked at only in a tick whose µop names it." -/
def Obligations.InputsReadOnlyWhereNamed : Prop :=
  ∀ (inp inp' : Inputs) (s : State), inp.rst = inp'.rst →
    (s.currentOp = some .adcPoll → inp.adcDone = inp'.adcDone) →
    (∀ r, s.currentOp = some (.adcRead r) → inp.adcResult = inp'.adcResult) →
    (∀ k, s.currentOp = some (.readBtn k) → inp.button k = inp'.button k) →
    tick inp s = tick inp' s
end

