-- ==== Sys2Proof/Laws/Memory.lean ====
section
/-! SUPPORT. Laws of memory: read after write, the canonical form kept, equal reads make equal memories. -/

namespace Sys2Proof.Machine.Memory

variable {size a b : Nat} {blank v : Byte} {m n : Memory}

@[simp] theorem read_nil : read blank [] a = blank := rfl

theorem wf_nil : wf size blank [] := by simp [wf]

theorem wf_tail {p : Host.Cell} (h : wf size blank (p :: m)) : wf size blank m :=
  ⟨(List.pairwise_cons.1 h.1).2, fun q hq => h.2 q (List.mem_cons_of_mem _ hq)⟩

/-- Below the first listed address everything reads as blank. -/
theorem read_below (h : ∀ p ∈ m, a < p.1) : read blank m a = blank := by
  induction m with
  | nil => rfl
  | cons p m ih =>
    have hp := h p (List.mem_cons_self ..)
    simp only [read, if_neg (show ¬a = p.1 by omega)]
    exact ih fun q hq => h q (List.mem_cons_of_mem _ hq)

theorem read_write_same (h : wf size blank m) : read blank (write blank m a v) a = v := by
  induction m with
  | nil => by_cases hv : v = blank <;> simp [write, read, hv]
  | cons p m ih =>
    obtain ⟨hp, -⟩ := List.pairwise_cons.1 h.1
    have below : a ≤ p.1 → read blank m a = blank := fun hab => read_below fun q hq => by have := hp q hq; omega
    simp only [write]
    split
    · split
      · rw [read, if_neg (by omega), below (by omega)]; exact Eq.symm ‹_›
      · simp [read]
    · split
      · split
        · rw [below (by omega)]; exact Eq.symm ‹_›
        · simp [read]
      · rw [read, if_neg ‹_›]; exact ih (wf_tail h)

theorem read_write_other (hab : b ≠ a) : read blank (write blank m a v) b = read blank m b := by
  induction m with
  | nil => by_cases hv : v = blank <;> simp [write, read, hv, hab]
  | cons p m ih =>
    simp only [write]
    split
    · split
      · rfl
      · rw [read, if_neg hab]
    · split
      · have hb : ¬b = p.1 := by omega
        split <;> simp [read, hb, hab]
      · simp only [read, ih]

/-- Every entry of a written memory was there before or is the one written. -/
theorem mem_write {p : Host.Cell} (h : p ∈ write blank m a v) : p ∈ m ∨ (p = (a, v) ∧ v ≠ blank) := by
  induction m with
  | nil => by_cases hv : v = blank <;> simp_all [write]
  | cons q m ih =>
    simp only [write] at h
    split at h
    · split at h
      · exact .inl h
      · simp_all; tauto
    · split at h
      · split at h
        · exact .inl (List.mem_cons_of_mem _ h)
        · simp_all; tauto
      · rcases List.mem_cons.1 h with rfl | h
        · exact .inl (List.mem_cons_self ..)
        · exact (ih h).imp_left (List.mem_cons_of_mem _)

/-- A write below `size` keeps the canonical form. -/
theorem wf_write (ha : a < size) (h : wf size blank m) : wf size blank (write blank m a v) := by
  refine ⟨?_, fun p hp => ?_⟩
  · induction m with
    | nil => by_cases hv : v = blank <;> simp [write, hv]
    | cons q m ih =>
      obtain ⟨hq, hm⟩ := List.pairwise_cons.1 h.1
      simp only [write]
      split
      · split
        · exact h.1
        · refine List.pairwise_cons.2 ⟨fun p hp => ?_, h.1⟩
          rcases List.mem_cons.1 hp with rfl | hp
          · assumption
          · have := hq p hp; omega
      · split
        · split
          · exact hm
          · exact List.pairwise_cons.2 ⟨fun p hp => by have := hq p hp; simp only; omega, hm⟩
        · refine List.pairwise_cons.2 ⟨fun p hp => ?_, ih (wf_tail h)⟩
          rcases mem_write hp with hp | ⟨rfl, -⟩
          · exact hq p hp
          · simp only; omega
  · rcases mem_write hp with hp | ⟨rfl, hv⟩
    · exact h.2 p hp
    · exact ⟨ha, hv⟩

/-- A memory written as a whole is in canonical form. -/
theorem wf_ofFun (f : Nat → Byte) : wf size blank (ofFun size blank f) := by
  constructor
  · refine List.Pairwise.filterMap (R := (· < ·)) _ (fun i j hij p hp q hq => ?_) List.pairwise_lt_range
    split at hp <;> split at hq <;> simp_all
    rw [← hp, ← hq]; exact hij
  · intro p hp
    simp only [ofFun, List.mem_filterMap, List.mem_range] at hp
    obtain ⟨i, hi, hp⟩ := hp
    split at hp <;> simp_all
    rw [← hp]; exact ⟨hi, ‹_›⟩

theorem read_ofFun_list (l : List Nat) (hl : l.Nodup) (f : Nat → Byte) :
    read blank (l.filterMap fun i => if f i = blank then none else some (i, f i)) a = if a ∈ l then f a else blank := by
  induction l with
  | nil => simp
  | cons i l ih =>
    have hl' := List.nodup_cons.1 hl
    by_cases hf : f i = blank
    · by_cases hai : a = i
      · subst hai; simp [hf, ih hl'.2, hl'.1]
      · simp [hf, ih hl'.2, hai]
    · by_cases hai : a = i
      · subst hai; simp [hf, read]
      · simp [hf, read, ih hl'.2, hai]

/-- Reading a memory written as a whole. -/
theorem read_ofFun (f : Nat → Byte) : read blank (ofFun size blank f) a = if a < size then f a else blank := by
  simpa [ofFun] using read_ofFun_list (a := a) (blank := blank) (List.range size) List.nodup_range f

/-- Two memories in canonical form that read alike are equal. -/
theorem ext_of_read (hm : wf size blank m) (hn : wf size blank n) (h : ∀ a, read blank m a = read blank n a) : m = n := by
  induction m generalizing n with
  | nil =>
    cases n with
    | nil => rfl
    | cons q n => exact absurd (by simpa [read] using (h q.1).symm) (hn.2 q (List.mem_cons_self ..)).2
  | cons p m ih =>
    cases n with
    | nil => exact absurd (by simpa [read] using h p.1) (hm.2 p (List.mem_cons_self ..)).2
    | cons q n =>
      obtain ⟨hp, -⟩ := List.pairwise_cons.1 hm.1
      obtain ⟨hq, -⟩ := List.pairwise_cons.1 hn.1
      have hpb := (hm.2 p (List.mem_cons_self ..)).2
      have hqb := (hn.2 q (List.mem_cons_self ..)).2
      have key : p.1 = q.1 := by
        by_contra hne
        rcases Nat.lt_or_gt_of_ne hne with hlt | hlt
        · have := h p.1
          rw [read, if_pos rfl, read, if_neg hne, read_below fun r hr => by have := hq r hr; omega] at this
          exact hpb this
        · have := h q.1
          rw [read, if_neg (Ne.symm hne), read, if_pos rfl, read_below fun r hr => by have := hp r hr; omega] at this
          exact hqb this.symm
      have val : p.2 = q.2 := by simpa [read, key] using h p.1
      have rest : m = n := by
        refine ih (wf_tail hm) (wf_tail hn) fun a => ?_
        by_cases ha : a = p.1
        · subst ha
          rw [read_below fun r hr => hp r hr, read_below fun r hr => key ▸ hq r hr]
        · have := h a
          rwa [read, if_neg ha, read, if_neg (key ▸ ha)] at this
      rw [show p = q from Prod.ext key val, rest]

end Sys2Proof.Machine.Memory
end

