-- ==== Sys2Proof/Laws/Operands.lean ====
section
/-! SUPPORT. Laws of the operand forms: splitting and joining lose nothing. -/

namespace Sys2Proof.Machine

@[simp] theorem join_hi_lo : ∀ v : Byte, join (hi v) (lo v) = v := by decide

@[simp] theorem hi_join : ∀ h l : Nibble, hi (join h l) = h := by decide

@[simp] theorem lo_join : ∀ h l : Nibble, lo (join h l) = l := by decide

@[simp] theorem b9Rs_b9Word : ∀ (rs : Bool) (v : Byte), b9Rs (b9Word rs v) = rs := by decide

@[simp] theorem b9Value_b9Word : ∀ (rs : Bool) (v : Byte), b9Value (b9Word rs v) = v := by decide

@[simp] theorem b9Word_eta : ∀ w : BitVec 9, b9Word (b9Rs w) (b9Value w) = w := by decide

@[simp] theorem n5Nibble_n5Word : ∀ (rs : Bool) (n : Nibble), n5Nibble (n5Word rs n) = n := by decide

/-- The digits of a reading are decimal digits, and the thousands digit is 0 or 1 (R114). -/
theorem digits_bounded (v : Reading) : d3 v < 10 ∧ d2 v < 10 ∧ d1 v < 10 ∧ d0 v < 10 := by
  have := v.isLt
  simp only [d3, d2, d1, d0]; omega

/-- The character of a decimal digit is one of the ten digit codes (R113). -/
theorem digitChar_mem {d : Nat} (h : d < 10) :
    digitChar d ∈ [0x30#8, 0x31#8, 0x32#8, 0x33#8, 0x34#8, 0x35#8, 0x36#8, 0x37#8, 0x38#8, 0x39#8] := by
  interval_cases d <;> decide

end Sys2Proof.Machine
end

