-- ==== Sys2Proof/Laws/Display.lean ====
section
/-! SUPPORT. Laws of the reference display: two pulses at a byte boundary are one byte; the cells stay canonical. -/

namespace Sys2Proof.Machine.Lcd

variable {l : Lcd}

/-- At a byte boundary two pulses execute the byte they carry, under the second pulse's level (R206). -/
theorem receive_pair (h : l.ifc = .if4Hi) (rs rs' : Bool) (n m : Nibble) :
    (l.receive rs n).receive rs' m = l.execute rs' (join n m) := by
  obtain ⟨ifc, panel, draws⟩ := l
  cases h
  rfl

/-- The cells of a display state of which nothing is known are in canonical form. -/
theorem free_wf (n : Nat) : Memory.wf cellCap cellBlank (Panel.free n).cells := Memory.wf_ofFun _

/-- A byte keeps the cells canonical. -/
theorem execute_wf (rs : Bool) (v : Byte) (h : Memory.wf cellCap cellBlank l.panel.cells) :
    Memory.wf cellCap cellBlank (l.execute rs v).panel.cells := by
  unfold execute command
  split
  · exact Memory.wf_write l.panel.ac.isLt h
  · repeat' split
    all_goals first | exact h | exact free_wf _ | exact Memory.wf_nil

/-- So does a stray byte. -/
theorem executeStray_wf (rs : Bool) (v : Byte) : Memory.wf cellCap cellBlank (l.executeStray rs v).panel.cells :=
  free_wf _

/-- A byte with a stray half lets the interface go where the byte sends it, and leaves a free display state (R213). -/
theorem executeStray_panel (rs : Bool) (v : Byte) :
    (l.executeStray rs v).ifc = (l.execute rs v).ifc ∧ (l.executeStray rs v).panel = Panel.free l.draws := ⟨rfl, rfl⟩

theorem complete_wf (stray rs : Bool) (v : Byte) (h : Memory.wf cellCap cellBlank l.panel.cells) :
    Memory.wf cellCap cellBlank (l.complete stray rs v).panel.cells := by
  cases stray
  · exact execute_wf _ _ h
  · exact executeStray_wf _ _

/-- A nibble keeps the cells canonical. -/
theorem receiveNibble_wf (stray rs : Bool) (n : Nibble) (h : Memory.wf cellCap cellBlank l.panel.cells) :
    Memory.wf cellCap cellBlank (l.receiveNibble stray rs n).panel.cells := by
  unfold receiveNibble
  split
  · exact complete_wf (l := { l with draws := l.draws + 1 }) _ _ _ h
  · exact h
  · exact complete_wf (l := { l with ifc := .if4Hi }) _ _ _ h

theorem receive_wf (rs : Bool) (n : Nibble) (h : Memory.wf cellCap cellBlank l.panel.cells) :
    Memory.wf cellCap cellBlank (l.receive rs n).panel.cells := receiveNibble_wf _ _ _ h

/-- What a reset can make of the display: it kept its state, or it took a stray nibble at the fall of a high `E`, or nothing
is known of it. -/
theorem atReset_cases (e : Bool) (l : Lcd) :
    let found := { l with ifc := l.ifc.strayed, draws := l.draws + 1 }
    l.atReset e = found ∨ (e = true ∧ ∃ rs n, l.atReset e = found.receiveNibble true rs n) ∨
      ∃ i : Ifc, l.atReset e = { found with ifc := i.strayed, panel := Panel.free l.draws } := by
  simp only [atReset]
  cases Config.displayAtReset l.draws with
  | kept => exact .inl rfl
  | latched rs n =>
    cases e
    · exact .inl rfl
    · exact .inr (.inl ⟨rfl, rs, n, rfl⟩)
  | repowered i => exact .inr (.inr ⟨i, rfl⟩)

/-- A reset keeps the cells canonical. -/
theorem atReset_wf (e : Bool) (h : Memory.wf cellCap cellBlank l.panel.cells) :
    Memory.wf cellCap cellBlank (l.atReset e).panel.cells := by
  rcases atReset_cases e l with hl | ⟨-, rs, n, hl⟩ | ⟨i, hl⟩ <;> rw [hl]
  · exact h
  · exact receiveNibble_wf _ _ _ h
  · exact free_wf _

end Sys2Proof.Machine.Lcd
end

