-- ==== Sys2Proof/Laws/Driver.lean ====
section
/-! SUPPORT. Laws of the commands of `INIT`: how many there are, and which. -/

namespace Sys2Proof.Machine

/-- Leaving out `k` entries leaves `k` fewer. -/
theorem omitFree_length (k : Nat) (l : List Instr) : (omitFree k l).length = l.length - k := by
  induction k generalizing l with
  | zero => rfl
  | succ k ih =>
    rw [omitFree, ih]
    cases l with
    | nil => simp
    | cons a l =>
      rw [List.length_eraseIdx_of_lt (Nat.mod_lt _ (by simp))]
      omega

/-- What is left is in the list's order. -/
theorem omitFree_sublist (k : Nat) (l : List Instr) : (omitFree k l).Sublist l := by
  induction k generalizing l with
  | zero => exact List.Sublist.refl l
  | succ k ih => exact (ih _).trans (List.eraseIdx_sublist ..)

/-- `INIT` has `N_INIT_CMDS` commands (C1). -/
theorem initCommands_length {c : Config} (h : c.initCountFits) : (initCommands c).length = c.nInitCmds := by
  rw [initCommands, omitFree_length]
  simp only [List.length_cons, List.length_nil]
  omega

/-- They are among the five of R135, in their order. -/
theorem initCommands_sublist (c : Config) :
    (initCommands c).Sublist [.functionSet, .displayOff, .clearDisplay, .entryMode, .displayOn] := omitFree_sublist _ _

/-- With the count of R6 they are the five (R135). -/
theorem initCommands_five {c : Config} (h : c.nInitCmds = 5) :
    initCommands c = [.functionSet, .displayOff, .clearDisplay, .entryMode, .displayOn] := by
  simp [initCommands, h, omitFree]

end Sys2Proof.Machine
end

