-- ==== Sys2Proof/Laws/Format.lean ====
section
/-! SUPPORT. Laws of the frame: it is canonical, its cells read back, and its text is its first 18 cells. -/

namespace Sys2Proof.Machine

theorem format_wf (c : Config) (r : Readings) : Memory.wf frameCap frameBlank (format c r) := Memory.wf_ofFun _

/-- The cells of a frame read back as they were laid out (R112). -/
theorem cells_format (c : Config) (r : Readings) :
    (List.range frameCap).map (Memory.read frameBlank (format c r)) = formatCells c r := by
  have : ∀ i ∈ List.range frameCap, Memory.read frameBlank (format c r) i = (formatCells c r).getD i frameBlank := by
    intro i hi
    rw [format, Memory.read_ofFun, if_pos (List.mem_range.1 hi)]
  rw [List.map_congr_left this]
  rfl

/-- Under well-formed parameters none of the 18 characters is the terminator, and only the one at index 7 is the marker
(R141). -/
theorem format_chars {c : Config} (hc : c.wf) (r : Readings) :
    c.term ∉ (formatCells c r).take 18 ∧ c.lineBreak ∉ (formatCells c r).take 7 ∧
      c.lineBreak ∉ ((formatCells c r).take 18).drop 8 := by
  obtain ⟨-, -, -, ⟨h1, h2, h3, h4, h5⟩, hm, -⟩ := hc
  have hb := hm c.lineBreak (by simp)
  have ht := hm c.term (by simp)
  obtain ⟨x3, x2, x1, x0⟩ := digits_bounded r.x
  obtain ⟨y3, y2, y1, y0⟩ := digits_bounded r.y
  have digit : ∀ k : Byte, k ∉ [0x78#8, 0x79#8, 0x3A#8, 0x20#8, 0x30#8, 0x31#8, 0x32#8, 0x33#8, 0x34#8, 0x35#8, 0x36#8,
      0x37#8, 0x38#8, 0x39#8] → ∀ d, d < 10 → k ≠ digitChar d := by
    intro k hk d hd hkd
    have := digitChar_mem hd
    simp only [List.mem_cons, List.not_mem_nil, or_false, not_or] at hk this
    rw [← hkd] at this
    tauto
  have button : ∀ k : Byte, k ≠ 0x20#8 → ∀ letter : Byte, letter ≠ k → ∀ b, k ≠ buttonChar letter b := by
    intro k hk letter hl b
    cases b
    · exact hk
    · exact Ne.symm hl
  have hb' := digit _ hb
  have ht' := digit _ ht
  simp only [List.mem_cons, List.not_mem_nil, not_or, or_false] at hb ht
  have b1 := button c.lineBreak hb.2.2.2.1
  have b2 := button c.term ht.2.2.2.1
  simp only [formatCells, List.take_succ_cons, List.take_zero, List.drop_succ_cons, List.drop_zero, List.mem_cons,
    List.not_mem_nil, not_or, or_false]
  have n5 := Ne.symm h5
  refine ⟨⟨?_, ?_, ?_, ?_, ?_, ?_, ?_, ?_, ?_, ?_, ?_, ?_, ?_, ?_, ?_, ?_, ?_, ?_⟩, ⟨?_, ?_, ?_, ?_, ?_, ?_, ?_⟩,
    ?_, ?_, ?_, ?_, ?_, ?_, ?_, ?_, ?_, ?_⟩ <;>
    first
    | exact n5 | exact ht.1 | exact hb.1 | exact ht.2.1 | exact hb.2.1 | exact ht.2.2.1 | exact hb.2.2.1
    | exact ht.2.2.2.1 | exact hb.2.2.2.1 | exact ht' _ ‹_› | exact hb' _ ‹_› | exact b2 _ ‹_› _ | exact b1 _ ‹_› _

/-- The text of a frame of the block is its first 18 cells (R112, R140). -/
theorem frameText_format {c : Config} (hc : c.wf) (r : Readings) :
    frameText c (format c r) = some ((formatCells c r).take 18) := by
  have hn := (format_chars hc r).1
  simp only [frameText, cells_format]
  have parts : formatCells c r = (formatCells c r).take 18 ++ [c.term, 0x00#8] := rfl
  rw [if_pos (by rw [parts]; simp)]
  conv_lhs => rw [parts]
  rw [List.takeWhile_append_of_pos]
  · simp
  · intro a ha
    simp only [bne_iff_ne]
    rintro rfl
    exact hn ha

end Sys2Proof.Machine
end

