-- ==== Sys2Proof/Laws/State.lean ====
section
/-! SUPPORT. What each update of the state does to each field, so that no later proof unfolds a record update. -/

namespace Sys2Proof.Machine.State

variable (s : State)

@[simp] theorem emit_cfg (e : Event) : (s.emit e).cfg = s.cfg := rfl
@[simp] theorem emit_lcdRs (e : Event) : (s.emit e).lcdRs = s.lcdRs := rfl
@[simp] theorem emit_lcdE (e : Event) : (s.emit e).lcdE = s.lcdE := rfl
@[simp] theorem emit_lcdD (e : Event) : (s.emit e).lcdD = s.lcdD := rfl
@[simp] theorem emit_adcCh (e : Event) : (s.emit e).adcCh = s.adcCh := rfl
@[simp] theorem emit_cur (e : Event) : (s.emit e).cur = s.cur := rfl
@[simp] theorem emit_snap (e : Event) : (s.emit e).snap = s.snap := rfl
@[simp] theorem emit_frame (e : Event) : (s.emit e).frame = s.frame := rfl
@[simp] theorem emit_tcount (e : Event) : (s.emit e).tcount = s.tcount := rfl
@[simp] theorem emit_dly (e : Event) : (s.emit e).dly = s.dly := rfl
@[simp] theorem emit_pc (e : Event) : (s.emit e).pc = s.pc := rfl
@[simp] theorem emit_lcd (e : Event) : (s.emit e).lcd = s.lcd := rfl
@[simp] theorem emit_inputs (e : Event) : (s.emit e).inputs = s.inputs := rfl
@[simp] theorem emit_clock (e : Event) : (s.emit e).clock = s.clock := rfl
@[simp] theorem emit_trace (e : Event) : (s.emit e).trace = e :: s.trace := rfl
@[simp] theorem emit_call (e : Event) : (s.emit e).call = s.call := rfl

@[simp] theorem elapse_cfg (n : Nat) : (s.elapse n).cfg = s.cfg := rfl
@[simp] theorem elapse_lcdRs (n : Nat) : (s.elapse n).lcdRs = s.lcdRs := rfl
@[simp] theorem elapse_lcdE (n : Nat) : (s.elapse n).lcdE = s.lcdE := rfl
@[simp] theorem elapse_lcdD (n : Nat) : (s.elapse n).lcdD = s.lcdD := rfl
@[simp] theorem elapse_adcCh (n : Nat) : (s.elapse n).adcCh = s.adcCh := rfl
@[simp] theorem elapse_cur (n : Nat) : (s.elapse n).cur = s.cur := rfl
@[simp] theorem elapse_snap (n : Nat) : (s.elapse n).snap = s.snap := rfl
@[simp] theorem elapse_frame (n : Nat) : (s.elapse n).frame = s.frame := rfl
@[simp] theorem elapse_tcount (n : Nat) : (s.elapse n).tcount = s.tcount := rfl
@[simp] theorem elapse_dly (n : Nat) : (s.elapse n).dly = s.dly := rfl
@[simp] theorem elapse_pc (n : Nat) : (s.elapse n).pc = s.pc := rfl
@[simp] theorem elapse_lcd (n : Nat) : (s.elapse n).lcd = s.lcd := rfl
@[simp] theorem elapse_inputs (n : Nat) : (s.elapse n).inputs = s.inputs.drop n := rfl
@[simp] theorem elapse_clock (n : Nat) : (s.elapse n).clock = s.clock + n := rfl
@[simp] theorem elapse_trace (n : Nat) : (s.elapse n).trace = s.trace := rfl
@[simp] theorem elapse_call (n : Nat) : (s.elapse n).call = s.call := rfl

@[simp] theorem setRs_cfg (l : Bool) : (s.setRs l).cfg = s.cfg := rfl
@[simp] theorem setRs_lcdRs (l : Bool) : (s.setRs l).lcdRs = l := rfl
@[simp] theorem setRs_lcdE (l : Bool) : (s.setRs l).lcdE = s.lcdE := rfl
@[simp] theorem setRs_lcdD (l : Bool) : (s.setRs l).lcdD = s.lcdD := rfl
@[simp] theorem setRs_adcCh (l : Bool) : (s.setRs l).adcCh = s.adcCh := rfl
@[simp] theorem setRs_cur (l : Bool) : (s.setRs l).cur = s.cur := rfl
@[simp] theorem setRs_snap (l : Bool) : (s.setRs l).snap = s.snap := rfl
@[simp] theorem setRs_frame (l : Bool) : (s.setRs l).frame = s.frame := rfl
@[simp] theorem setRs_tcount (l : Bool) : (s.setRs l).tcount = s.tcount := rfl
@[simp] theorem setRs_dly (l : Bool) : (s.setRs l).dly = s.dly := rfl
@[simp] theorem setRs_pc (l : Bool) : (s.setRs l).pc = s.pc := rfl
@[simp] theorem setRs_lcd (l : Bool) : (s.setRs l).lcd = s.lcd := rfl
@[simp] theorem setRs_inputs (l : Bool) : (s.setRs l).inputs = s.inputs := rfl
@[simp] theorem setRs_clock (l : Bool) : (s.setRs l).clock = s.clock := rfl
@[simp] theorem setRs_trace (l : Bool) : (s.setRs l).trace = .pinWrite .rs l :: s.trace := rfl
@[simp] theorem setRs_call (l : Bool) : (s.setRs l).call = s.call := rfl

@[simp] theorem setD_cfg (n : Nibble) : (s.setD n).cfg = s.cfg := rfl
@[simp] theorem setD_lcdRs (n : Nibble) : (s.setD n).lcdRs = s.lcdRs := rfl
@[simp] theorem setD_lcdE (n : Nibble) : (s.setD n).lcdE = s.lcdE := rfl
@[simp] theorem setD_lcdD (n : Nibble) : (s.setD n).lcdD = n := rfl
@[simp] theorem setD_adcCh (n : Nibble) : (s.setD n).adcCh = s.adcCh := rfl
@[simp] theorem setD_cur (n : Nibble) : (s.setD n).cur = s.cur := rfl
@[simp] theorem setD_snap (n : Nibble) : (s.setD n).snap = s.snap := rfl
@[simp] theorem setD_frame (n : Nibble) : (s.setD n).frame = s.frame := rfl
@[simp] theorem setD_tcount (n : Nibble) : (s.setD n).tcount = s.tcount := rfl
@[simp] theorem setD_dly (n : Nibble) : (s.setD n).dly = s.dly := rfl
@[simp] theorem setD_pc (n : Nibble) : (s.setD n).pc = s.pc := rfl
@[simp] theorem setD_lcd (n : Nibble) : (s.setD n).lcd = s.lcd := rfl
@[simp] theorem setD_inputs (n : Nibble) : (s.setD n).inputs = s.inputs := rfl
@[simp] theorem setD_clock (n : Nibble) : (s.setD n).clock = s.clock := rfl
@[simp] theorem setD_trace (n : Nibble) : (s.setD n).trace = .dataWrite n :: s.trace := rfl
@[simp] theorem setD_call (n : Nibble) : (s.setD n).call = s.call := rfl

@[simp] theorem setE_cfg (l : Bool) : (s.setE l).cfg = s.cfg := rfl
@[simp] theorem setE_lcdRs (l : Bool) : (s.setE l).lcdRs = s.lcdRs := rfl
@[simp] theorem setE_lcdE (l : Bool) : (s.setE l).lcdE = l := rfl
@[simp] theorem setE_lcdD (l : Bool) : (s.setE l).lcdD = s.lcdD := rfl
@[simp] theorem setE_adcCh (l : Bool) : (s.setE l).adcCh = s.adcCh := rfl
@[simp] theorem setE_cur (l : Bool) : (s.setE l).cur = s.cur := rfl
@[simp] theorem setE_snap (l : Bool) : (s.setE l).snap = s.snap := rfl
@[simp] theorem setE_frame (l : Bool) : (s.setE l).frame = s.frame := rfl
@[simp] theorem setE_tcount (l : Bool) : (s.setE l).tcount = s.tcount := rfl
@[simp] theorem setE_dly (l : Bool) : (s.setE l).dly = s.dly := rfl
@[simp] theorem setE_pc (l : Bool) : (s.setE l).pc = s.pc := rfl
@[simp] theorem setE_lcd (l : Bool) :
    (s.setE l).lcd = if s.lcdE && !l then s.lcd.receive s.lcdRs s.lcdD else s.lcd := rfl
@[simp] theorem setE_inputs (l : Bool) : (s.setE l).inputs = s.inputs := rfl
@[simp] theorem setE_clock (l : Bool) : (s.setE l).clock = s.clock := rfl
@[simp] theorem setE_trace (l : Bool) : (s.setE l).trace = .pinWrite .e l :: s.trace := rfl
@[simp] theorem setE_call (l : Bool) : (s.setE l).call = s.call := rfl

@[simp] theorem delayEvent_cfg (d : DelayName) : (s.delayEvent d).cfg = s.cfg := by unfold delayEvent; split <;> rfl
@[simp] theorem delayEvent_lcdRs (d : DelayName) :
    (s.delayEvent d).lcdRs = s.lcdRs := by unfold delayEvent; split <;> rfl
@[simp] theorem delayEvent_lcdE (d : DelayName) :
    (s.delayEvent d).lcdE = s.lcdE := by unfold delayEvent; split <;> rfl
@[simp] theorem delayEvent_lcdD (d : DelayName) :
    (s.delayEvent d).lcdD = s.lcdD := by unfold delayEvent; split <;> rfl
@[simp] theorem delayEvent_adcCh (d : DelayName) :
    (s.delayEvent d).adcCh = s.adcCh := by unfold delayEvent; split <;> rfl
@[simp] theorem delayEvent_cur (d : DelayName) : (s.delayEvent d).cur = s.cur := by unfold delayEvent; split <;> rfl
@[simp] theorem delayEvent_snap (d : DelayName) :
    (s.delayEvent d).snap = s.snap := by unfold delayEvent; split <;> rfl
@[simp] theorem delayEvent_frame (d : DelayName) :
    (s.delayEvent d).frame = s.frame := by unfold delayEvent; split <;> rfl
@[simp] theorem delayEvent_tcount (d : DelayName) :
    (s.delayEvent d).tcount = s.tcount := by unfold delayEvent; split <;> rfl
@[simp] theorem delayEvent_dly (d : DelayName) : (s.delayEvent d).dly = s.dly := by unfold delayEvent; split <;> rfl
@[simp] theorem delayEvent_pc (d : DelayName) : (s.delayEvent d).pc = s.pc := by unfold delayEvent; split <;> rfl
@[simp] theorem delayEvent_lcd (d : DelayName) : (s.delayEvent d).lcd = s.lcd := by unfold delayEvent; split <;> rfl
@[simp] theorem delayEvent_inputs (d : DelayName) :
    (s.delayEvent d).inputs = s.inputs := by unfold delayEvent; split <;> rfl
@[simp] theorem delayEvent_clock (d : DelayName) :
    (s.delayEvent d).clock = s.clock := by unfold delayEvent; split <;> rfl
@[simp] theorem delayEvent_trace (d : DelayName) :
    (s.delayEvent d).trace = if s.dly = 0 then .delay d :: s.trace else s.trace := by unfold delayEvent; split <;> rfl
@[simp] theorem delayEvent_call (d : DelayName) :
    (s.delayEvent d).call = s.call := by unfold delayEvent; split <;> rfl

@[simp] theorem delayTick_cfg (d : DelayName) : (s.delayTick d).cfg = s.cfg := delayEvent_cfg s d
@[simp] theorem delayTick_lcdRs (d : DelayName) : (s.delayTick d).lcdRs = s.lcdRs := delayEvent_lcdRs s d
@[simp] theorem delayTick_lcdE (d : DelayName) : (s.delayTick d).lcdE = s.lcdE := delayEvent_lcdE s d
@[simp] theorem delayTick_lcdD (d : DelayName) : (s.delayTick d).lcdD = s.lcdD := delayEvent_lcdD s d
@[simp] theorem delayTick_adcCh (d : DelayName) : (s.delayTick d).adcCh = s.adcCh := delayEvent_adcCh s d
@[simp] theorem delayTick_cur (d : DelayName) : (s.delayTick d).cur = s.cur := delayEvent_cur s d
@[simp] theorem delayTick_snap (d : DelayName) : (s.delayTick d).snap = s.snap := delayEvent_snap s d
@[simp] theorem delayTick_frame (d : DelayName) : (s.delayTick d).frame = s.frame := delayEvent_frame s d
@[simp] theorem delayTick_tcount (d : DelayName) : (s.delayTick d).tcount = s.tcount := delayEvent_tcount s d
@[simp] theorem delayTick_dly (d : DelayName) : (s.delayTick d).dly = s.delayNext d := rfl
@[simp] theorem delayTick_pc (d : DelayName) : (s.delayTick d).pc = s.pc := delayEvent_pc s d
@[simp] theorem delayTick_lcd (d : DelayName) : (s.delayTick d).lcd = s.lcd := delayEvent_lcd s d
@[simp] theorem delayTick_inputs (d : DelayName) : (s.delayTick d).inputs = s.inputs := delayEvent_inputs s d
@[simp] theorem delayTick_clock (d : DelayName) : (s.delayTick d).clock = s.clock := delayEvent_clock s d
@[simp] theorem delayTick_trace (d : DelayName) :
    (s.delayTick d).trace = if s.dly = 0 then .delay d :: s.trace else s.trace := delayEvent_trace s d
@[simp] theorem delayTick_call (d : DelayName) : (s.delayTick d).call = s.call := delayEvent_call s d

@[simp] theorem delayAll_cfg (d : DelayName) : (s.delayAll d).cfg = s.cfg := delayEvent_cfg s d
@[simp] theorem delayAll_lcdRs (d : DelayName) : (s.delayAll d).lcdRs = s.lcdRs := delayEvent_lcdRs s d
@[simp] theorem delayAll_lcdE (d : DelayName) : (s.delayAll d).lcdE = s.lcdE := delayEvent_lcdE s d
@[simp] theorem delayAll_lcdD (d : DelayName) : (s.delayAll d).lcdD = s.lcdD := delayEvent_lcdD s d
@[simp] theorem delayAll_adcCh (d : DelayName) : (s.delayAll d).adcCh = s.adcCh := delayEvent_adcCh s d
@[simp] theorem delayAll_cur (d : DelayName) : (s.delayAll d).cur = s.cur := delayEvent_cur s d
@[simp] theorem delayAll_snap (d : DelayName) : (s.delayAll d).snap = s.snap := delayEvent_snap s d
@[simp] theorem delayAll_frame (d : DelayName) : (s.delayAll d).frame = s.frame := delayEvent_frame s d
@[simp] theorem delayAll_tcount (d : DelayName) : (s.delayAll d).tcount = s.tcount := delayEvent_tcount s d
@[simp] theorem delayAll_dly (d : DelayName) : (s.delayAll d).dly = 0 := rfl
@[simp] theorem delayAll_pc (d : DelayName) : (s.delayAll d).pc = s.pc := delayEvent_pc s d
@[simp] theorem delayAll_lcd (d : DelayName) : (s.delayAll d).lcd = s.lcd := delayEvent_lcd s d
@[simp] theorem delayAll_inputs (d : DelayName) :
    (s.delayAll d).inputs = s.inputs.drop (s.delayLeft d) := by rw [← delayEvent_inputs s d]; rfl
@[simp] theorem delayAll_clock (d : DelayName) :
    (s.delayAll d).clock = s.clock + s.delayLeft d := by rw [← delayEvent_clock s d]; rfl
@[simp] theorem delayAll_trace (d : DelayName) :
    (s.delayAll d).trace = if s.dly = 0 then .delay d :: s.trace else s.trace := delayEvent_trace s d
@[simp] theorem delayAll_call (d : DelayName) : (s.delayAll d).call = s.call := delayEvent_call s d

@[simp] theorem adcSel_cfg (c : Nat) : (s.adcSel c).cfg = s.cfg := rfl
@[simp] theorem adcSel_lcdRs (c : Nat) : (s.adcSel c).lcdRs = s.lcdRs := rfl
@[simp] theorem adcSel_lcdE (c : Nat) : (s.adcSel c).lcdE = s.lcdE := rfl
@[simp] theorem adcSel_lcdD (c : Nat) : (s.adcSel c).lcdD = s.lcdD := rfl
@[simp] theorem adcSel_adcCh (c : Nat) : (s.adcSel c).adcCh = c := rfl
@[simp] theorem adcSel_cur (c : Nat) : (s.adcSel c).cur = s.cur := rfl
@[simp] theorem adcSel_snap (c : Nat) : (s.adcSel c).snap = s.snap := rfl
@[simp] theorem adcSel_frame (c : Nat) : (s.adcSel c).frame = s.frame := rfl
@[simp] theorem adcSel_tcount (c : Nat) : (s.adcSel c).tcount = s.tcount := rfl
@[simp] theorem adcSel_dly (c : Nat) : (s.adcSel c).dly = s.dly := rfl
@[simp] theorem adcSel_pc (c : Nat) : (s.adcSel c).pc = s.pc := rfl
@[simp] theorem adcSel_lcd (c : Nat) : (s.adcSel c).lcd = s.lcd := rfl
@[simp] theorem adcSel_inputs (c : Nat) : (s.adcSel c).inputs = s.inputs := rfl
@[simp] theorem adcSel_clock (c : Nat) : (s.adcSel c).clock = s.clock := rfl
@[simp] theorem adcSel_trace (c : Nat) : (s.adcSel c).trace = .adcSelect c :: s.trace := rfl
@[simp] theorem adcSel_call (c : Nat) : (s.adcSel c).call = s.call := rfl

@[simp] theorem adcRead_cfg (r : Axis) (v : Reading) : (s.adcRead r v).cfg = s.cfg := rfl
@[simp] theorem adcRead_lcdRs (r : Axis) (v : Reading) : (s.adcRead r v).lcdRs = s.lcdRs := rfl
@[simp] theorem adcRead_lcdE (r : Axis) (v : Reading) : (s.adcRead r v).lcdE = s.lcdE := rfl
@[simp] theorem adcRead_lcdD (r : Axis) (v : Reading) : (s.adcRead r v).lcdD = s.lcdD := rfl
@[simp] theorem adcRead_adcCh (r : Axis) (v : Reading) : (s.adcRead r v).adcCh = s.adcCh := rfl
@[simp] theorem adcRead_cur (r : Axis) (v : Reading) :
    (s.adcRead r v).cur = match r with | .x => { s.cur with x := v } | .y => { s.cur with y := v } := rfl
@[simp] theorem adcRead_snap (r : Axis) (v : Reading) : (s.adcRead r v).snap = s.snap := rfl
@[simp] theorem adcRead_frame (r : Axis) (v : Reading) : (s.adcRead r v).frame = s.frame := rfl
@[simp] theorem adcRead_tcount (r : Axis) (v : Reading) : (s.adcRead r v).tcount = s.tcount := rfl
@[simp] theorem adcRead_dly (r : Axis) (v : Reading) : (s.adcRead r v).dly = s.dly := rfl
@[simp] theorem adcRead_pc (r : Axis) (v : Reading) : (s.adcRead r v).pc = s.pc := rfl
@[simp] theorem adcRead_lcd (r : Axis) (v : Reading) : (s.adcRead r v).lcd = s.lcd := rfl
@[simp] theorem adcRead_inputs (r : Axis) (v : Reading) : (s.adcRead r v).inputs = s.inputs := rfl
@[simp] theorem adcRead_clock (r : Axis) (v : Reading) : (s.adcRead r v).clock = s.clock := rfl
@[simp] theorem adcRead_trace (r : Axis) (v : Reading) : (s.adcRead r v).trace = .adcResult v :: s.trace := rfl
@[simp] theorem adcRead_call (r : Axis) (v : Reading) : (s.adcRead r v).call = s.call := rfl

@[simp] theorem readBtn_cfg (k : Button) (level : Bool) : (s.readBtn k level).cfg = s.cfg := rfl
@[simp] theorem readBtn_lcdRs (k : Button) (level : Bool) : (s.readBtn k level).lcdRs = s.lcdRs := rfl
@[simp] theorem readBtn_lcdE (k : Button) (level : Bool) : (s.readBtn k level).lcdE = s.lcdE := rfl
@[simp] theorem readBtn_lcdD (k : Button) (level : Bool) : (s.readBtn k level).lcdD = s.lcdD := rfl
@[simp] theorem readBtn_adcCh (k : Button) (level : Bool) : (s.readBtn k level).adcCh = s.adcCh := rfl
@[simp] theorem readBtn_cur (k : Button) (level : Bool) :
    (s.readBtn k level).cur = match k with | .one => { s.cur with b1 := pressed s.cfg level } | .two => { s.cur with b2 := pressed s.cfg level } := rfl
@[simp] theorem readBtn_snap (k : Button) (level : Bool) : (s.readBtn k level).snap = s.snap := rfl
@[simp] theorem readBtn_frame (k : Button) (level : Bool) : (s.readBtn k level).frame = s.frame := rfl
@[simp] theorem readBtn_tcount (k : Button) (level : Bool) : (s.readBtn k level).tcount = s.tcount := rfl
@[simp] theorem readBtn_dly (k : Button) (level : Bool) : (s.readBtn k level).dly = s.dly := rfl
@[simp] theorem readBtn_pc (k : Button) (level : Bool) : (s.readBtn k level).pc = s.pc := rfl
@[simp] theorem readBtn_lcd (k : Button) (level : Bool) : (s.readBtn k level).lcd = s.lcd := rfl
@[simp] theorem readBtn_inputs (k : Button) (level : Bool) : (s.readBtn k level).inputs = s.inputs := rfl
@[simp] theorem readBtn_clock (k : Button) (level : Bool) : (s.readBtn k level).clock = s.clock := rfl
@[simp] theorem readBtn_trace (k : Button) (level : Bool) :
    (s.readBtn k level).trace = .pinRead k level :: s.trace := rfl
@[simp] theorem readBtn_call (k : Button) (level : Bool) : (s.readBtn k level).call = s.call := rfl

@[simp] theorem textEnd_cfg (n : Nat) : (s.textEnd n).cfg = s.cfg := rfl
@[simp] theorem textEnd_lcdRs (n : Nat) : (s.textEnd n).lcdRs = s.lcdRs := rfl
@[simp] theorem textEnd_lcdE (n : Nat) : (s.textEnd n).lcdE = s.lcdE := rfl
@[simp] theorem textEnd_lcdD (n : Nat) : (s.textEnd n).lcdD = s.lcdD := rfl
@[simp] theorem textEnd_adcCh (n : Nat) : (s.textEnd n).adcCh = s.adcCh := rfl
@[simp] theorem textEnd_cur (n : Nat) : (s.textEnd n).cur = s.cur := rfl
@[simp] theorem textEnd_snap (n : Nat) : (s.textEnd n).snap = s.snap := rfl
@[simp] theorem textEnd_frame (n : Nat) : (s.textEnd n).frame = s.frame := rfl
@[simp] theorem textEnd_tcount (n : Nat) : (s.textEnd n).tcount = BitVec.ofNat 5 n := rfl
@[simp] theorem textEnd_dly (n : Nat) : (s.textEnd n).dly = s.dly := rfl
@[simp] theorem textEnd_pc (n : Nat) : (s.textEnd n).pc = s.pc := rfl
@[simp] theorem textEnd_lcd (n : Nat) : (s.textEnd n).lcd = s.lcd := rfl
@[simp] theorem textEnd_inputs (n : Nat) : (s.textEnd n).inputs = s.inputs := rfl
@[simp] theorem textEnd_clock (n : Nat) : (s.textEnd n).clock = s.clock := rfl
@[simp] theorem textEnd_trace (n : Nat) : (s.textEnd n).trace = s.trace := rfl
@[simp] theorem textEnd_call (n : Nat) : (s.textEnd n).call = s.call := rfl

@[simp] theorem update_cfg : s.update.cfg = s.cfg := rfl
@[simp] theorem update_lcdRs : s.update.lcdRs = s.lcdRs := rfl
@[simp] theorem update_lcdE : s.update.lcdE = s.lcdE := rfl
@[simp] theorem update_lcdD : s.update.lcdD = s.lcdD := rfl
@[simp] theorem update_adcCh : s.update.adcCh = s.adcCh := rfl
@[simp] theorem update_cur : s.update.cur = s.cur := rfl
@[simp] theorem update_snap : s.update.snap = s.cur := rfl
@[simp] theorem update_frame : s.update.frame = format s.cfg s.cur := rfl
@[simp] theorem update_tcount : s.update.tcount = s.tcount := rfl
@[simp] theorem update_dly : s.update.dly = s.dly := rfl
@[simp] theorem update_pc : s.update.pc = s.pc := rfl
@[simp] theorem update_lcd : s.update.lcd = s.lcd := rfl
@[simp] theorem update_inputs : s.update.inputs = s.inputs := rfl
@[simp] theorem update_clock : s.update.clock = s.clock := rfl
@[simp] theorem update_trace : s.update.trace = s.trace := rfl
@[simp] theorem update_call : s.update.call = s.call := rfl

@[simp] theorem applyReset_cfg : s.applyReset.cfg = s.cfg := rfl
@[simp] theorem applyReset_lcdRs : s.applyReset.lcdRs = false := rfl
@[simp] theorem applyReset_lcdE : s.applyReset.lcdE = false := rfl
@[simp] theorem applyReset_lcdD : s.applyReset.lcdD = 0 := rfl
@[simp] theorem applyReset_adcCh : s.applyReset.adcCh = 0 := rfl
@[simp] theorem applyReset_cur : s.applyReset.cur = { x := 0, y := 0, b1 := false, b2 := false } := rfl
@[simp] theorem applyReset_snap : s.applyReset.snap = s.cfg.snapReset := rfl
@[simp] theorem applyReset_frame : s.applyReset.frame = [] := rfl
@[simp] theorem applyReset_tcount : s.applyReset.tcount = 0 := rfl
@[simp] theorem applyReset_dly : s.applyReset.dly = 0 := rfl
@[simp] theorem applyReset_pc : s.applyReset.pc = { phase := .init, u := 0 } := rfl
@[simp] theorem applyReset_lcd : s.applyReset.lcd = s.lcd.atReset s.lcdE := rfl
@[simp] theorem applyReset_inputs : s.applyReset.inputs = s.inputs := rfl
@[simp] theorem applyReset_clock : s.applyReset.clock = s.clock := rfl
@[simp] theorem applyReset_trace : s.applyReset.trace = [] := rfl
@[simp] theorem applyReset_call : s.applyReset.call = s.call := rfl

/-- After `n` ticks the inputs have moved on by `n`. -/
@[simp] theorem inputAt_elapse (n k : Nat) : (s.elapse n).inputAt k = s.inputAt (n + k) := by
  simp [inputAt, List.getD_eq_getElem?_getD, Nat.add_assoc]

@[simp] theorem elapse_elapse (m n : Nat) : (s.elapse m).elapse n = s.elapse (m + n) := by
  simp [elapse, Nat.add_assoc]

@[simp] theorem elapse_zero : s.elapse 0 = s := by simp [elapse]

end Sys2Proof.Machine.State
end

