-- ==== Sys2Proof/Laws/Ops.lean ====
section
/-! SUPPORT. Laws of transfers as a whole: lists of µops concatenate, their ticks add up, and a transfer leaves alone what
it does not name. -/

namespace Sys2Proof.Machine

open State

@[simp] theorem runBus_nil (s : State) : runBus [] s = s := rfl

@[simp] theorem runBus_cons (op : BusOp) (l : List BusOp) (s : State) : runBus (op :: l) s = runBus l (op.run s) := rfl

theorem runBus_append (k l : List BusOp) (s : State) : runBus (k ++ l) s = runBus l (runBus k s) := by
  induction k generalizing s with
  | nil => rfl
  | cons op k ih => exact ih _

@[simp] theorem busTicks_nil (c : Config) : busTicks c [] = 0 := rfl

@[simp] theorem busTicks_cons (c : Config) (op : BusOp) (l : List BusOp) :
    busTicks c (op :: l) = op.ticks c + busTicks c l := rfl

theorem busTicks_append (c : Config) (k l : List BusOp) : busTicks c (k ++ l) = busTicks c k + busTicks c l := by
  induction k with
  | nil => simp
  | cons op k ih => simp [ih, Nat.add_assoc]

/-- One µop of a transfer leaves alone what it does not name. -/
theorem BusOp.run_frame (op : BusOp) (s : State) :
    (op.run s).frame = s.frame ∧ sameButDriver s (op.run s) := by
  cases op <;> simp [BusOp.run, sameButDriver]

/-- A transfer leaves alone what it does not name. -/
theorem runBus_frame (l : List BusOp) (s : State) :
    (runBus l s).frame = s.frame ∧ sameButDriver s (runBus l s) := by
  induction l generalizing s with
  | nil => simp [sameButDriver]
  | cons op l ih =>
    obtain ⟨hf, hs⟩ := op.run_frame s
    obtain ⟨gf, gs⟩ := ih (op.run s)
    simp only [sameButDriver, runBus_cons] at *
    simp_all

end Sys2Proof.Machine
end

