-- ==== Sys2Proof/Laws/PerInstr.lean ====
section
/-! SUPPORT. Statements about instructions as syntax, one lemma per constructor. -/

namespace Sys2Proof.Laws.WordLength

open Sys2Proof.Machine

/-- The format of a word and the length of its µop list go together: N5 is one `NIBBLE` of 5 µops (R91, R130), B9 one
`BYTE` of 11 (R92, R132), and the list is the framing of the word (R108). -/
def Statement (i : Instr) : Prop :=
  ∀ c : Config, wordOps c i = transmitOps (encode c i) ∧
    match encode c i with
    | .n5 _ => (wordOps c i).length = 5
    | .b9 _ => (wordOps c i).length = 11

theorem wake : Statement .wake := fun c => ⟨by simp [wordOps, encode, transmitOps], rfl⟩

theorem mode4 : Statement .mode4 := fun c => ⟨by simp [wordOps, encode, transmitOps], rfl⟩

theorem functionSet : Statement .functionSet := fun c => ⟨by simp [wordOps, encode, transmitOps, cmdOps], rfl⟩

theorem displayOff : Statement .displayOff := fun c => ⟨by simp [wordOps, encode, transmitOps, cmdOps], rfl⟩

theorem clearDisplay : Statement .clearDisplay := fun c => ⟨by simp [wordOps, encode, transmitOps, cmdOps], rfl⟩

theorem entryMode : Statement .entryMode := fun c => ⟨by simp [wordOps, encode, transmitOps, cmdOps], rfl⟩

theorem displayOn : Statement .displayOn := fun c => ⟨by simp [wordOps, encode, transmitOps, cmdOps], rfl⟩

theorem setLine2 : Statement .setLine2 := fun c => ⟨by simp [wordOps, encode, transmitOps, cmdOps], rfl⟩

theorem writeChar (v : Byte) : Statement (.writeChar v) := fun c => ⟨by simp [wordOps, encode, transmitOps], rfl⟩

end Sys2Proof.Laws.WordLength
end

