-- ==== Sys2Proof/Laws/Tick.lean ====
section
/-! SUPPORT. What one step can do, said once, and how runs compose. -/

namespace Sys2Proof.Machine

open State

/-- A tick that answers a next state was a reset, or performed the µop at `pc`. -/
theorem tick_cases {inp : Inputs} {s t : State} (h : tick inp s = .next t) :
    (inp.rst = true ∧ t = s.applyReset.elapse 1) ∨
      (inp.rst = false ∧ ∃ ops op, s.ops = some ops ∧ ops[s.pc.u]? = some op ∧
        t = (op.tick ops.length inp s).elapse 1) := by
  unfold tick at h
  split at h
  · cases h; exact .inl ⟨‹_›, rfl⟩
  · split at h
    · cases h
    · split at h
      · cases h
      · rename_i hr _ _ ho _ _ hu
        cases h; exact .inr ⟨by simpa using hr, _, _, ho, hu, rfl⟩

/-- A word placed is executed as the framing of some bytes or of some nibble; so one transfer is run. -/
theorem exec_is_transfer (i : Instr) (s : State) : exec i s = .next (runBus (wordOps s.cfg i) s) := by
  cases i <;> rfl

/-- A step that answers a next state ran one transfer, was a reset, or performed the µop at `pc`. -/
theorem step_cases {s t : State} (h : step s = .next t) :
    (∃ w ops, s.call = some w ∧ t = runBus ops { s with call := none }) ∨
      (s.call = none ∧ s.present.rst = true ∧ t = s.applyReset.elapse 1) ∨
      (s.call = none ∧ s.present.rst = false ∧ ∃ ops op, s.ops = some ops ∧ ops[s.pc.u]? = some op ∧
        t = (op.tick ops.length s.present s).elapse 1) := by
  unfold step at h
  split at h
  · rcases tick_cases h with ⟨hr, ht⟩ | ⟨hr, ht⟩
    · exact .inr (.inl ⟨‹_›, hr, ht⟩)
    · exact .inr (.inr ⟨‹_›, hr, ht⟩)
  · split at h
    · rw [exec_is_transfer] at h
      cases h; exact .inl ⟨_, _, ‹_›, rfl⟩
    · cases h; exact .inl ⟨_, _, ‹_›, rfl⟩

/-- A step with nothing placed and `rst` low performs the µop at `pc`. -/
theorem step_eq {s : State} {ops : List MicroOp} {op : MicroOp} (hc : s.call = none) (hr : s.present.rst = false)
    (ho : s.ops = some ops) (hu : ops[s.pc.u]? = some op) :
    step s = .next ((op.tick ops.length s.present s).elapse 1) := by
  simp [step, hc, tick, hr, ho, hu]

@[simp] theorem run_zero (s : State) : run 0 s = .next s := rfl

/-- The first step of a run. -/
theorem run_succ {n : Nat} {s t : State} (h : step s = .next t) : run (n + 1) s = run n t := by
  simp [run, Host.Core.run, show Sys2Proof.core.step s = .next t from h]
  rfl

/-- Runs compose. -/
theorem run_add {m n : Nat} {s t : State} (h : run m s = .next t) : run (m + n) s = run n t := by
  induction m generalizing s with
  | zero => cases h; rw [Nat.zero_add]
  | succ m ih =>
    cases hs : step s with
    | next s' => rw [run_succ hs] at h; rw [Nat.add_right_comm, run_succ hs]; exact ih h
    | fault r => exact absurd h (by simp [run, Host.Core.run, show Sys2Proof.core.step s = .fault r from hs])
    | refused r => exact absurd h (by simp [run, Host.Core.run, show Sys2Proof.core.step s = .refused r from hs])

/-- `rst` low for a while, seen from later. -/
theorem rstLow_elapse {m n : Nat} {s : State} (h : s.rstLow (m + n)) : (s.elapse m).rstLow n := fun k hk => by
  rw [inputAt_elapse]; exact h _ (by omega)

theorem rstLow_mono {m n : Nat} {s : State} (h : s.rstLow n) (hmn : m ≤ n) : s.rstLow m := fun k hk => h k (by omega)

end Sys2Proof.Machine
end

