-- ==== Sys2Proof/Tests/Slice0.lean ====
section
/-! SUPPORT. Tests whose expected values are the spec's (95_test_vectors.md, spec/opcode_table.json), the ill-formed terms,
and a witness for the hypotheses of every statement. -/

namespace Sys2Proof.Tests

open Machine

/-! ### A small machine: the example delays of 95_test_vectors.md, a display in 4-bit mode, quiet inputs -/

def cfg : Config :=
  { Config.platform with tEHold := 1, tSettle := 2, tInit := 3, tSample := 2, tLoop := 5, fClk := 1000000 }

def quiet : Inputs := { rst := false, btn1 := false, btn2 := false, adcDone := true, adcResult := 0 }

def panel : Panel :=
  { cells := [], ac := 0, id := true, s := false, d := true, c := false, b := false, nl := false, f := false }

def demo : State where
  cfg := cfg
  lcdRs := false
  lcdE := false
  lcdD := 0
  adcCh := 0
  cur := { x := 512, y := 7, b1 := true, b2 := false }
  snap := { x := 0, y := 0, b1 := false, b2 := false }
  frame := []
  tcount := 0
  dly := 0
  pc := { phase := .init, u := 0 }
  lcd := { ifc := .if4Hi, panel := panel, draws := 1 }
  inputs := List.replicate 600 quiet
  clock := 0
  trace := []
  call := none

def atPc (p : Phase) (u : Nat) (s : State) : State := { s with pc := { phase := p, u := u } }

def showing (s : State) : State := { s with frame := format s.cfg s.snap }

def in8 (s : State) : State := { s with lcd := { s.lcd with ifc := .if8 } }

def fed (l : List Inputs) (s : State) : State := { s with inputs := l ++ s.inputs }

/-- A property of the next state. -/
def after (o : Host.Outcome State Fault Refusal) (p : State → Bool) : Bool :=
  match o with
  | .next t => p t
  | .fault _ => false
  | .refused _ => false

theorem quiet_low {s : State} {m n : Nat} (h : s.inputs = List.replicate m quiet) (hn : n ≤ m) : s.rstLow n := by
  intro k hk
  have : k < m := by omega
  simp [State.inputAt, h, this, quiet]

theorem platform_wf : Config.platform.wf :=
  ⟨by decide, by decide, by simp [Config.delaysPositive, Config.platform], by decide, by decide,
    by decide⟩

theorem cfg_wf : cfg.wf := ⟨by decide, by decide, by decide, by decide, by decide, by decide⟩

/-! ### Parameters: an ill-formed term for each check -/

theorem test_illFormed_functionSet : ¬ Config.functionSetFor4Bit { cfg with functionSetCode := 0x30 } := by decide

theorem test_alternative_functionSet : Config.functionSetFor4Bit { cfg with functionSetCode := 0x28 } := by decide

theorem test_illFormed_sameChannels : ¬ Config.channelsFit { cfg with chY := 0 } := by decide

theorem test_illFormed_wideChannel : ¬ Config.channelsFit { cfg with chX := 16 } := by decide

theorem test_illFormed_zeroDelay : ¬ Config.delaysPositive { cfg with tLoop := 0 } := by decide

theorem test_illFormed_letter : ¬ Config.lettersPlain { cfg with btn2Letter := 0x0A } := by decide

theorem test_illFormed_terminator : ¬ Config.lettersPlain { cfg with term := 0x0A } := by decide

theorem test_illFormed_marker : ¬ Config.markersPlain { cfg with lineBreak := 0x35 } := by decide

theorem test_illFormed_initCount : ¬ Config.initCountFits { cfg with nInitCmds := 6 } := by decide

theorem test_illFormed_whole : ¬ Config.wf { cfg with functionSetCode := 0x30 } := fun h =>
  absurd h.1 test_illFormed_functionSet

/-- No term of `Instr` is ill formed: `WRITE_CHAR` takes any 8-bit value (R104). -/
theorem test_wf_writeChar : Instr.wf (.writeChar 0x0A) = true := by decide

/-! ### Decoding: the words of spec/opcode_table.json, bit by bit -/

theorem test_decode_wake : decodeTableWord 8 0b00011 = some .wake := by decide

theorem test_decode_mode4 : decodeTableWord 8 0b00010 = some .mode4 := by decide

theorem test_decode_functionSet : decodeTableWord 16 0b000100000 = some .functionSet := by decide

theorem test_decode_displayOff : decodeTableWord 16 0b000001000 = some .displayOff := by decide

theorem test_decode_clearDisplay : decodeTableWord 16 0b000000001 = some .clearDisplay := by decide

theorem test_decode_entryMode : decodeTableWord 16 0b000000110 = some .entryMode := by decide

theorem test_decode_displayOn : decodeTableWord 16 0b000001100 = some .displayOn := by decide

theorem test_decode_setLine2 : decodeTableWord 16 0b011000000 = some .setLine2 := by decide

/-- `WRITE_CHAR 0x78`, "1cccccccc", B9 word 0x178 (P2). -/
theorem test_decode_writeChar : decodeTableWord 16 0b101111000 = some (.writeChar 0x78) := by decide

/-- The same byte value as command and as data differs in bit 8 only (V11). -/
theorem test_decode_rs : decodeTableWord 16 0b100000110 = some (.writeChar 0x06) := by decide

theorem test_reject_n5 : decode cfg (.n5 0b10011) = .error (.notAnInitNibble 0b10011) := by decide

theorem test_reject_b9 : decode cfg (.b9 0b000000010) = .error (.notACommandOfTheBlock 0b000000010) := by decide

theorem test_reject_wide : decodeTableWord 8 0b100011 = none ∧ decodeTableWord 16 0b1000000001 = none ∧
    decodeTableWord 24 1 = none := by decide

/-! ### Instructions: pulses and effect -/

/-- V1: `P(0,3)`, five events, 6 ticks (V90). -/
theorem test_wake : after (exec .wake demo) (fun t => t.pulses == [(false, 3)] && t.clock == 6 &&
    t.trace.reverse == [.dataWrite 3, .pinWrite .e true, .delay .eHold, .pinWrite .e false, .delay .settle]) = true := by
  decide

/-- V71: from a byte boundary two wake nibbles make the byte 0x33, an 8-bit function set. -/
theorem test_wake_display : after (exec .wake { demo with lcd := { demo.lcd with ifc := .if4Lo 3 false } })
    (fun t => t.lcd.ifc == .if8) = true := by decide

/-- V73, V74: over a stray nibble 2 or 7 the first wake nibble ends at a byte boundary, over 3 (V72) in 8-bit mode. -/
theorem test_wake_stray :
    after (exec .wake { demo with lcd := { demo.lcd with ifc := .if4Lo 2 true } }) (fun t => t.lcd.ifc == .if4Hi) = true ∧
    after (exec .wake { demo with lcd := { demo.lcd with ifc := .if4Lo 7 true } }) (fun t => t.lcd.ifc == .if4Hi) = true ∧
    after (exec .wake { demo with lcd := { demo.lcd with ifc := .if4Lo 3 true } }) (fun t => t.lcd.ifc == .if8) = true := by
  decide

/-- R262 (b): a nibble held at a reset is stray from then on. -/
theorem test_strayed : (Ifc.if4Lo 7 false).strayed = .if4Lo 7 true := rfl

/-- Pulse 3 of `INIT`, `P(0,2)` (P1). -/
theorem test_mode4 : after (exec .mode4 demo) (fun t => t.pulses == [(false, 2)]) = true := by decide

theorem test_functionSet : after (exec .functionSet demo) (fun t => t.pulses == [(false, 2), (false, 0)]) = true := by
  decide

/-- V9: with the alternative code `P(0,2) ; P(0,8)`; the line bit is set (R211). -/
theorem test_functionSet_twoLines : after (exec .functionSet { demo with cfg := { cfg with functionSetCode := 0x28 } })
    (fun t => t.pulses == [(false, 2), (false, 8)] && t.lcd.panel.nl && !t.lcd.panel.f && t.lcd.ifc == .if4Hi) = true := by
  decide

/-- V85. -/
theorem test_displayOff : after (exec .displayOff demo) (fun t => t.pulses == [(false, 0), (false, 8)] &&
    !t.lcd.panel.d && !t.lcd.panel.c && !t.lcd.panel.b) = true := by decide

/-- V8, V80: `P(0,0) ; P(0,1)`, 13 ticks (V91), cells blank, cursor home. -/
theorem test_clearDisplay : after (exec .clearDisplay { demo with lcd := { demo.lcd with panel :=
    { panel with cells := [(3, 0x41)], ac := 9, id := false } } }) (fun t => t.pulses == [(false, 0), (false, 1)] &&
    t.clock == 13 && t.lcd.panel == { panel with cells := [], ac := 0, id := true }) = true := by decide

/-- V84. -/
theorem test_entryMode : after (exec .entryMode demo) (fun t => t.pulses == [(false, 0), (false, 6)] &&
    t.lcd.panel == panel) = true := by decide

/-- R209: with another entry-mode code the direction bit is bit 1, the shift bit bit 0. -/
theorem test_entryMode_bits : after (exec .entryMode { demo with cfg := { cfg with entryModeCode := 0x05 } })
    (fun t => !t.lcd.panel.id && t.lcd.panel.s) = true := by decide

/-- V86. -/
theorem test_displayOn : after (exec .displayOn { demo with lcd := { demo.lcd with panel := { panel with d := false } } })
    (fun t => t.pulses == [(false, 0), (false, 0xC)] && t.lcd.panel == panel) = true := by decide

/-- V5, V83: `P(0,C) ; P(0,0)`, the cursor from 7 to 0x40, cells unchanged. -/
theorem test_setLine2 : after (exec .setLine2 { demo with lcd := { demo.lcd with panel :=
    { panel with cells := [(3, 0x41)], ac := 7 } } }) (fun t => t.pulses == [(false, 0xC), (false, 0)] &&
    t.lcd.panel == { panel with cells := [(3, 0x41)], ac := 0x40 }) = true := by decide

/-- V7, V82: `P(1,7) ; P(1,8)`, `cell[0] = 0x78`, cursor 1, 13 ticks. -/
theorem test_writeChar : after (exec (.writeChar 0x78) demo) (fun t => t.pulses == [(true, 7), (true, 8)] &&
    t.clock == 13 && t.lcd.panel == { panel with cells := [(0, 0x78)], ac := 1 }) = true := by decide

/-- R216 at the top of the cells: the cursor goes from 127 to 0; a space unlists the cell. -/
theorem test_writeChar_wraps : after (exec (.writeChar 0x20) { demo with lcd := { demo.lcd with panel :=
    { panel with cells := [(3, 0x41), (127, 0x42)], ac := 127 } } })
    (fun t => t.lcd.panel == { panel with cells := [(3, 0x41)], ac := 0 }) = true := by decide

/-- V10: `DATA(0x41)` is two words, `P(1,4) ; P(1,1) ; P(0,0) ; P(0,6)`, 26 ticks (V92). -/
theorem test_data : (runBus (dataOps cfg 0x41) demo).pulses = [(true, 4), (true, 1), (false, 0), (false, 6)] ∧
    (runBus (dataOps cfg 0x41) demo).clock = 26 := by decide

/-- C1: with a count of four, eight words. -/
theorem test_init_four : (initWords { cfg with nInitCmds := 4 }).length = 8 := by
  simp [initWords, initCommands_length (c := { cfg with nInitCmds := 4 }) (by decide)]

/-! ### The step -/

/-- From reset with nothing placed the block performs `SetRS(0)` (R263), if `rst` is low. -/
theorem test_first_step : step { State.reset with inputs := [quiet] } =
    .next { State.reset with trace := [.pinWrite .rs false], pc := { phase := .init, u := 1 }, clock := 1 } := rfl

/-- A word of the table placed at reset runs at the next step, under parameters of which nothing is known. -/
theorem test_placed_at_reset : ∃ t, step (State.reset.withFetchWord 8 0b00011) = .next t ∧ t.lcdD = 0x3#4 :=
  ⟨_, rfl, rfl⟩

theorem test_placed_writeChar : step (demo.withFetchWord 16 0b101111000) = exec (.writeChar 0x78) demo := rfl

/-- U14: a command value the sequence never uses is framed all the same. -/
theorem test_placed_unlisted : after (step { demo with call := some (.b9 0x0FF) })
    (fun t => t.pulses == [(false, 0xF), (false, 0xF)]) = true := by decide

/-- R262 (a): reset from a high `E`; the lines, the counter and the control state are those of R37. -/
theorem test_reset_mid_pulse : ∃ t, step { (atPc .init 3 demo) with lcdE := true, lcdD := 3, dly := 1, inputs := [{ quiet with rst := true }] } =
    .next t ∧ t.lcdE = false ∧ t.lcdD = 0 ∧ t.dly = 0 ∧ t.pc = { phase := .init, u := 0 } := ⟨_, rfl, rfl, rfl, rfl, rfl⟩

/-! ### The refresh controller -/

/-- V25, S6: the source's worked frame. -/
theorem test_frame : (List.range 20).map (Memory.read frameBlank (format cfg { x := 512, y := 7, b1 := true, b2 := false })) =
    [0x78, 0x3A, 0x20, 0x30, 0x35, 0x31, 0x32, 0x0A, 0x79, 0x3A, 0x20, 0x30, 0x30, 0x30, 0x37, 0x20, 0x41, 0x20, 0, 0] := by
  decide

/-- V23: the largest readings, both buttons. -/
theorem test_frame_full : (List.range 20).map (Memory.read frameBlank (format cfg { x := 1023, y := 1023, b1 := true, b2 := true })) =
    [0x78, 0x3A, 0x20, 0x31, 0x30, 0x32, 0x33, 0x0A, 0x79, 0x3A, 0x20, 0x31, 0x30, 0x32, 0x33, 0x20, 0x41, 0x42, 0, 0] := by
  decide

def axis (v : Reading) : Readings := { x := v, y := 7, b1 := false, b2 := false }

/-- V30 to V39. -/
theorem test_changed : changed (axis 9) (axis 0) = false ∧ changed (axis 10) (axis 9) = true ∧
    changed (axis 19) (axis 10) = false ∧ changed (axis 515) (axis 512) = false ∧ changed (axis 510) (axis 509) = true ∧
    changed (axis 1020) (axis 1019) = true ∧ changed (axis 1023) (axis 1020) = false ∧ changed (axis 0) (axis 1023) = true := by
  decide

/-- V45, V46, V48. -/
theorem test_changed_whole : changed { x := 512, y := 7, b1 := false, b2 := false } { x := 512, y := 7, b1 := true, b2 := false } = true ∧
    changed { x := 512, y := 7, b1 := true, b2 := true } { x := 512, y := 7, b1 := true, b2 := false } = true ∧
    changed { x := 512, y := 10, b1 := true, b2 := false } { x := 512, y := 7, b1 := true, b2 := false } = true := by decide

/-- V60, V62, V63: the text of a buffer, and one second-line command for each marker. -/
theorem test_text : frameText cfg [] = some [] ∧ frameText cfg [(0, 0x0A)] = some [0x0A] ∧
    frameText cfg [(0, 0x41), (1, 0x0A), (2, 0x42), (3, 0x0A), (4, 0x43)] = some [0x41, 0x0A, 0x42, 0x0A, 0x43] ∧
    textBusOps cfg [0x0A] = cmdOps 0xC0 := by decide

/-- V93 to V95, and the counts of R280 with the example delays. -/
theorem test_ticks : nibbleTicks cfg = 6 ∧ byteTicks cfg = 13 ∧ initTicks cfg = 117 ∧ refreshTicks cfg = 469 := by decide

/-- V50: the µops of `SAMPLE_X`, and the strobe of the first (R21). -/
theorem test_axis_list : sampleAxisOps cfg .x = [.adcSel 0, .adcSample, .bus (.delay .sample), .adcConvert, .adcPoll, .adcRead .x] ∧
    (atPc .sampleX 0 demo).strobes = ⟨true, false, false, false⟩ := by decide

/-- V55: with `BTN_ACTIVE` 0 a low level is pressed. -/
theorem test_buttons : pressed { cfg with btnActive := false } true = false ∧ pressed { cfg with btnActive := false } false = true := by
  decide

/-- R94: the transfer list of the 14 pulses of `INIT` is the nine words in order (P1). -/
theorem test_transfers : transfers (initPulses cfg) = [.n5 0x03, .n5 0x03, .n5 0x03, .n5 0x02, .b9 0x020, .b9 0x008, .b9 0x001,
    .b9 0x006, .b9 0x00C] := by decide

/-! ### Witnesses: for the hypotheses of each statement, a state and operands that meet them together -/

theorem codes_distinct : cfg.codesDistinct := by decide

theorem codes_standard : cfg.codesStandard := by decide

theorem witness_DecodeOfEncode : cfg.codesDistinct ∧ Instr.wf (.writeChar 0xFF) = true := by decide

theorem witness_EncodeOfDecode : decode cfg (.b9 0b111111111) = .ok (.writeChar 0xFF) ∧
    decode cfg (.n5 0b00010) = .ok .mode4 ∧ decode cfg (.b9 0b011000000) = .ok .setLine2 := by decide

theorem witness_PulsesAreTheWord : traceRs demo.trace = demo.lcdRs := rfl

theorem witness_NibbleTransfer : demo.lcdE = false ∧ demo.dly = 0 ∧ traceRs demo.trace = demo.lcdRs := by decide

theorem witness_ByteTransfer : demo.dly = 0 := rfl

theorem witness_DataTransfer : demo.dly = 0 := rfl

theorem witness_WordsTakeTheirTicks : demo.dly = 0 := rfl

theorem witness_AnyWordIsFramed :
    (∃ s : State, s.call = some (.b9 (b9Word false 0xFF))) ∧ ∃ s : State, s.call = some (.n5 (n5Word true 0xF)) :=
  ⟨⟨{ demo with call := some (.b9 (b9Word false 0xFF)) }, rfl⟩, { demo with call := some (.n5 (n5Word true 0xF)) }, rfl⟩

theorem witness_ClearDisplayBlanksAndHomes : demo.cfg.clearCode = 0x01#8 ∧ demo.lcd.ifc = .if4Hi := by decide

theorem witness_EntryModeSetsDirection :
    demo.cfg.entryModeCode.extractLsb' 2 6 = 0b000001#6 ∧ demo.lcd.ifc = .if4Hi := by decide

theorem witness_DisplayControlSwitches :
    demo.cfg.displayOffCode = 0x08#8 ∧ demo.cfg.displayOnCode = 0x0C#8 ∧ demo.lcd.ifc = .if4Hi := by decide

theorem witness_FunctionSetKeepsFourBits : demo.cfg.functionSetFor4Bit ∧ demo.lcd.ifc = .if4Hi := by decide

theorem witness_SetLine2MovesCursor : demo.cfg.line2Code = setAddressCode 0x40#7 ∧ demo.lcd.ifc = .if4Hi := by decide

theorem witness_WriteCharStoresAndMoves :
    demo.lcd.ifc = .if4Hi ∧ Memory.wf cellCap cellBlank demo.lcd.panel.cells := by decide

theorem witness_InitNibblesInEightBitMode : (in8 demo).cfg.wakeNibble = 0x3#4 ∧ (in8 demo).cfg.mode4Nibble = 0x2#4 ∧
    (in8 demo).lcdRs = false ∧ (in8 demo).lcd.ifc = .if8 := by decide

theorem witness_WakeSequenceResynchronises :
    demo.cfg.wakeNibble = 0x3#4 ∧ demo.cfg.mode4Nibble = 0x2#4 ∧ demo.lcdRs = false := by decide

theorem witness_StrayByteLeavesDisplayOpen : ∃ s : State, s.cfg.wakeNibble = 0x3#4 ∧ s.lcdRs = false ∧
    s.lcd.ifc = .if4Lo 7 true := ⟨{ demo with lcd := { demo.lcd with ifc := .if4Lo 7 true } }, rfl, rfl, rfl⟩

/-- At both ends of the count. -/
theorem witness_InitCommandsAreCounted : cfg.initCountFits ∧ cfg.nInitCmds = 5 ∧
    Config.initCountFits { cfg with nInitCmds := 0 } := by decide

theorem witness_StepRunsPlacedInstruction : (demo.withFetchWord 16 0b101111000).call = some (.b9 0b101111000) ∧
    decode demo.cfg (.b9 0b101111000) = .ok (.writeChar 0x78) ∧ Instr.wf (.writeChar 0x78) = true := by decide

theorem witness_StepPerformsOneTick : demo.call = none ∧ demo.present.rst = false ∧
    (atPc .sampleX 5 demo).ops = some (sampleAxisOps cfg .x) ∧ (sampleAxisOps cfg .x)[5]? = some (.adcRead .x) := by decide

theorem witness_ResetFromAnyState : ∃ s : State, s.call = none ∧ s.present.rst = true ∧
    ∃ t, step s = .next t ∧ t.present.rst = false :=
  ⟨fed [{ quiet with rst := true }] (atPc .text 7 demo), rfl, rfl, _, rfl, rfl⟩

theorem witness_SequenceRunsWords : demo.call = none ∧ demo.cfg.delaysPositive ∧ demo.dly = 0 ∧
    (atPc .clear 0 demo).ops = some ((clearOps cfg).map .bus) ∧
    ((clearOps cfg).map MicroOp.bus).drop 0 = (wordOps cfg .clearDisplay).map .bus ++ [] ∧
    (atPc .clear 0 demo).rstLow (busTicks cfg (wordOps cfg .clearDisplay)) :=
  ⟨rfl, by decide, rfl, rfl, rfl, quiet_low rfl (by decide)⟩

theorem witness_DelayOccupiesItsTicks : demo.call = none ∧ 1 ≤ delayTicks cfg .loop ∧ demo.dly = 0 ∧
    (atPc .throttle 0 demo).ops = some throttleOps ∧ throttleOps[0]? = some (.bus (.delay .loop)) ∧
    (atPc .throttle 0 demo).rstLow (delayTicks cfg .loop) ∧ 0 < 4 ∧ 4 < delayTicks cfg .loop :=
  ⟨rfl, by decide, rfl, rfl, rfl, quiet_low rfl (by decide), by decide, by decide⟩

def waiting : Inputs := { quiet with adcDone := false }

def polling : State := fed [waiting, waiting] (atPc .sampleX 4 demo)

/-- Both clauses: two polls answered 0, and a poll answered 1. -/
theorem witness_PollRepeatsUntilDone : polling.call = none ∧ polling.ops = some (sampleAxisOps cfg .x) ∧
    (sampleAxisOps cfg .x)[4]? = some .adcPoll ∧ polling.rstLow 2 ∧ (∀ k, k < 2 → (polling.inputAt k).adcDone = false) ∧
    (atPc .sampleX 4 demo).present.rst = false ∧ (atPc .sampleX 4 demo).present.adcDone = true :=
  ⟨rfl, rfl, rfl, by unfold State.rstLow; decide, by decide, rfl, rfl⟩

/-- Both axes, answered at once; and one poll answered 0 first. -/
theorem witness_SampleAxisReadsTheConverter : demo.call = none ∧ demo.cfg.delaysPositive ∧ demo.dly = 0 ∧
    (∀ p, (atPc p 0 demo).rstLow (cfg.tSample + 0 + 5) ∧ ((atPc p 0 demo).inputAt (cfg.tSample + 3 + 0)).adcDone = true) ∧
    ∃ s : State, s.pc = { phase := .sampleX, u := 0 } ∧ s.rstLow (cfg.tSample + 1 + 5) ∧
      (∀ j, j < 1 → (s.inputAt (cfg.tSample + 3 + j)).adcDone = false) ∧
      (s.inputAt (cfg.tSample + 3 + 1)).adcDone = true :=
  ⟨rfl, by decide, rfl, fun _ => ⟨quiet_low rfl (by decide), rfl⟩,
    fed (List.replicate 5 quiet ++ [waiting]) (atPc .sampleX 0 demo), rfl, by unfold State.rstLow; decide, by decide, rfl⟩

theorem witness_SampleButtonsReadsLevels : demo.call = none ∧ (atPc .buttons 0 demo).rstLow 2 :=
  ⟨rfl, quiet_low rfl (by decide)⟩

/-- Both branches: the readings of `demo` differ from its snapshot; the snapshot does not differ from itself. -/
theorem witness_DecideBranchesOnChanged : demo.call = none ∧ (atPc .decide 0 demo).present.rst = false ∧
    changed demo.cur demo.snap = true ∧ changed demo.snap demo.snap = false := by decide

theorem witness_UpdateWritesSnapshotAndFrame : demo.call = none ∧ (atPc .update 0 demo).present.rst = false := by decide

theorem witness_ThrottleReturnsToSampling :
    demo.call = none ∧ 1 ≤ demo.cfg.tLoop ∧ demo.dly = 0 ∧ (atPc .throttle 0 demo).rstLow cfg.tLoop :=
  ⟨rfl, by decide, rfl, quiet_low rfl (by decide)⟩

def fullFrame : Memory := Memory.ofFun frameCap frameBlank fun i => if i = 19 then 0x00 else 0x41

def endlessFrame : Memory := Memory.ofFun frameCap frameBlank fun _ => 0x41

/-- At both ends of the buffer: `TERM` in cell 0, `TERM` in cell 19. -/
theorem witness_TextDispatchesCharacters : Memory.read frameBlank [] 0 = cfg.term ∧
    Memory.read frameBlank fullFrame 19 = cfg.term ∧ ∀ i, i < 19 → Memory.read frameBlank fullFrame i ≠ cfg.term := by
  decide

theorem witness_UnterminatedTextRefused : ∃ s : State, s.call = none ∧ s.present.rst = false ∧ s.pc.phase = .text ∧
    ∀ n, n < frameCap → Memory.read frameBlank s.frame n ≠ s.cfg.term :=
  ⟨{ (atPc .text 0 demo) with frame := endlessFrame }, rfl, rfl, rfl, by decide⟩

theorem witness_BlockTextSize : cfg.wf := cfg_wf

theorem witness_TextEndStoresCount : ∃ s : State, s.call = none ∧ s.present.rst = false ∧ s.cfg.wf ∧
    s.frame = format s.cfg s.snap ∧ s.pc = { phase := .text, u := 385 } :=
  ⟨showing (atPc .text 385 demo), rfl, rfl, cfg_wf, rfl, rfl⟩

theorem witness_OperationSizes : cfg.lineBreak ∉ [0x41#8, 0x42#8] ∧ cfg.initCountFits ∧ cfg.nInitCmds = 5 := by decide

theorem witness_InitRunsToReady : outOfReset demo ∧ demo.cfg.delaysPositive ∧ demo.cfg.initCountFits ∧
    demo.cfg.nInitCmds = 5 ∧ demo.rstLow (initTicks cfg) :=
  ⟨⟨rfl, rfl, rfl, rfl, rfl, rfl, rfl⟩, by decide, by decide, rfl, quiet_low rfl (by decide)⟩

theorem witness_InitLeavesDisplayKnown :
    outOfReset demo ∧ demo.cfg.wf ∧ demo.cfg.codesStandard ∧ demo.cfg.nInitCmds = 5 ∧ demo.rstLow (initTicks cfg) :=
  ⟨⟨rfl, rfl, rfl, rfl, rfl, rfl, rfl⟩, cfg_wf, codes_standard, rfl, quiet_low rfl (by decide)⟩

theorem witness_RefreshShowsTheFrame : ∃ s : State, s.call = none ∧ s.cfg.wf ∧ s.cfg.codesStandard ∧ s.dly = 0 ∧
    s.pc = { phase := .clear, u := 0 } ∧ s.frame = format s.cfg s.snap ∧ s.lcd.ready ∧ s.rstLow (refreshTicks s.cfg) :=
  ⟨showing (atPc .clear 0 demo), rfl, cfg_wf, codes_standard, rfl, rfl, rfl, ⟨rfl, rfl, rfl, rfl, rfl, rfl⟩,
    quiet_low rfl (by decide)⟩

/-- With the X conversion polled once in vain. The X polls are the ticks 5 and 6, the Y poll the tick 13. -/
theorem witness_IterationSamplesThenBranches : ∃ s : State, s.call = none ∧ s.cfg.delaysPositive ∧ s.dly = 0 ∧
    s.pc = { phase := .sampleX, u := 0 } ∧ s.rstLow 18 ∧ (∀ j, j < 1 → (s.inputAt (5 + j)).adcDone = false) ∧
    (s.inputAt (5 + 1)).adcDone = true ∧ (∀ j, j < 0 → (s.inputAt (13 + j)).adcDone = false) ∧
    (s.inputAt (13 + 0)).adcDone = true ∧ s.cfg.tSample + 3 = 5 ∧ 5 + 1 + 2 + s.cfg.tSample + 3 = 13 ∧ 13 + 0 + 2 + 3 = 18 :=
  ⟨fed (List.replicate 5 quiet ++ [waiting]) (atPc .sampleX 0 demo), rfl, by decide, rfl, rfl,
    by unfold State.rstLow; decide, by decide, rfl, by decide, rfl, rfl, rfl, rfl⟩

/-- A state of the invariant, at the second µop of `INIT` after its first. -/
def started : State := { (atPc .init 1 demo) with trace := [.pinWrite .rs false] }

theorem started_inv : Inv started where
  idle := rfl
  params := cfg_wf
  frameWf := by decide
  cellsWf := by decide
  channelFits := by decide
  control := ⟨_, rfl, by decide⟩
  counter := fun h => absurd rfl h
  enable := by intro ops h; cases h; rfl
  lines := ⟨rfl, rfl, rfl⟩
  shown := .inr ⟨rfl, by decide, by decide⟩

/-- A state of the invariant with `RS` high, about to lower it: the command that follows a character. -/
def afterData : State := { demo with lcdRs := true, trace := [.pinWrite .rs true] }

theorem afterData_inv : Inv afterData where
  idle := rfl
  params := cfg_wf
  frameWf := by decide
  cellsWf := by decide
  channelFits := by decide
  control := ⟨_, rfl, by decide⟩
  counter := fun h => absurd rfl h
  enable := by intro ops h; cases h; rfl
  lines := ⟨rfl, rfl, rfl⟩
  shown := .inr ⟨rfl, by decide, by decide⟩

theorem witness_StepKeepsInvariant : Inv started ∧ ∃ t, step started = .next t := ⟨started_inv, _, rfl⟩

theorem witness_InvariantNeverStops : Inv started := started_inv

theorem witness_StepKeepsMemoriesCanonical : Memory.wf frameCap frameBlank demo.frame ∧
    Memory.wf cellCap cellBlank demo.lcd.panel.cells ∧ (∃ t, step (atPc .update 0 demo) = .next t) ∧
    ∃ t, step (demo.withFetchWord 16 0b101111000) = .next t := ⟨by decide, by decide, ⟨_, rfl⟩, _, rfl⟩

theorem witness_StepKeepsParameters : ∃ t, step demo = .next t := ⟨_, rfl⟩

/-- A data line moves; the mode-select line moves. -/
theorem witness_LinesMoveOnlyWhileEnableLow :
    (Inv started ∧ started.present.rst = false ∧ ∃ t, step started = .next t ∧ t.lcdD ≠ started.lcdD) ∧
    Inv afterData ∧ afterData.present.rst = false ∧ ∃ t, step afterData = .next t ∧ t.lcdRs ≠ afterData.lcdRs :=
  ⟨⟨started_inv, rfl, _, rfl, by decide⟩, afterData_inv, rfl, _, rfl, by decide⟩

theorem witness_FrameKeepsShowingSnapshot : ∃ s t : State, s.frame = format s.cfg s.snap ∧
    (s.call = none → s.present.rst = false) ∧ step s = .next t ∧ t.snap ≠ s.snap :=
  ⟨showing (atPc .update 0 demo), _, rfl, fun _ => rfl, rfl, by decide⟩

/-- Each clause: its register does change, in its phase. -/
theorem witness_RegistersWrittenInTheirPhases :
    (∃ t, step (atPc .sampleY 0 demo) = .next t ∧ t.adcCh ≠ demo.adcCh) ∧
    (∃ t, step (atPc .sampleX 5 demo) = .next t ∧ t.cur.x ≠ demo.cur.x) ∧
    (∃ t, step (atPc .sampleY 5 demo) = .next t ∧ t.cur.y ≠ demo.cur.y) ∧
    (∃ t, step (atPc .buttons 0 demo) = .next t ∧ t.cur.b1 ≠ demo.cur.b1) ∧
    (∃ t, step (atPc .update 0 demo) = .next t ∧ t.snap ≠ demo.snap ∧ t.frame ≠ demo.frame) ∧
    (∃ t, step (showing (atPc .text 385 demo)) = .next t ∧ t.tcount ≠ demo.tcount) ∧
    (∃ t, step (atPc .init 1 demo) = .next t ∧ t.lcdD ≠ demo.lcdD) ∧
    (∃ t, step (atPc .throttle 0 demo) = .next t ∧ t.dly ≠ demo.dly) ∧
    ∀ p u, (atPc p u demo).call = none ∧ (atPc p u demo).present.rst = false :=
  ⟨⟨_, rfl, by decide⟩, ⟨_, rfl, by decide⟩, ⟨_, rfl, by decide⟩, ⟨_, rfl, by decide⟩, ⟨_, rfl, by decide, by decide⟩,
    ⟨_, rfl, by decide⟩, ⟨_, rfl, by decide⟩, ⟨_, rfl, by decide⟩, fun _ _ => ⟨rfl, rfl⟩⟩

/-- A tick that holds, one that moves on, one that enters the next phase; and one out of which `drv_ready` was up. -/
theorem witness_ControlMovesByThePhaseTable :
    (∃ t, step (atPc .throttle 0 demo) = .next t ∧ t.pc = { phase := .throttle, u := 0 }) ∧
    (∃ t, step (atPc .buttons 0 demo) = .next t ∧ t.pc = { phase := .buttons, u := 1 }) ∧
    (∃ t, step (atPc .decide 0 demo) = .next t ∧ t.pc = { phase := .update, u := 0 }) ∧
    (atPc .decide 0 demo).drvReady = true :=
  ⟨⟨_, rfl, rfl⟩, ⟨_, rfl, rfl⟩, ⟨_, rfl, rfl⟩, rfl⟩

theorem witness_BlockIgnoresTheDisplay : ∃ t, step started = .next t := ⟨_, rfl⟩

/-- Inputs that differ in everything the µop does not name: a poll, a read, a button, and a µop that names nothing. -/
theorem witness_InputsReadOnlyWhereNamed :
    let other : Inputs := { quiet with adcResult := 5, btn2 := true }
    quiet.rst = other.rst ∧ quiet.rst = waiting.rst ∧
    ((atPc .sampleX 4 demo).currentOp = some .adcPoll ∧ quiet.adcDone = other.adcDone) ∧
    ((atPc .sampleX 5 demo).currentOp = some (.adcRead .x) ∧ quiet.adcResult = waiting.adcResult) ∧
    ((atPc .buttons 0 demo).currentOp = some (.readBtn .one) ∧ quiet.button .one = other.button .one) ∧
    (atPc .decide 0 demo).currentOp = some .decide := by decide

end Sys2Proof.Tests
end

namespace Sys2Proof.Machine

/-! ### Scope: the parameters and the counted commands of `INIT` (R6) -/

@[simp] theorem BusOp.perform_cfg (op : BusOp) (s : State) : (op.perform s).cfg = s.cfg := by
  cases op with
  | setRs l => exact State.setRs_cfg s l
  | setD n => exact State.setD_cfg s n
  | setE l => exact State.setE_cfg s l
  | delay d => exact State.delayTick_cfg s d

@[simp] theorem MicroOp.perform_cfg (op : MicroOp) (inp : Inputs) (s : State) : (op.perform inp s).cfg = s.cfg := by
  cases op with
  | bus b => exact b.perform_cfg s
  | adcSel | adcSample | adcConvert | adcPoll | adcRead | readBtn | decide | update | textEnd => rfl

@[simp] theorem MicroOp.tick_cfg (op : MicroOp) (len : Nat) (inp : Inputs) (s : State) :
    (op.tick len inp s).cfg = s.cfg := op.perform_cfg inp s

@[simp] theorem runBus_cfg (ops : List BusOp) (s : State) : (runBus ops s).cfg = s.cfg := by
  obtain ⟨-, hcfg, -⟩ := runBus_frame ops s
  exact hcfg

/-- Settles O52: a placed word's transfer, a reset and the tick of a µop each keep the parameters (R6, R20). -/
theorem stepKeepsParameters : Obligations.StepKeepsParameters := by
  intro s t h
  obtain ⟨_, ops, -, rfl⟩ | ⟨-, -, rfl⟩ | ⟨-, -, ops, op, -, -, rfl⟩ := step_cases h
  · exact runBus_cfg ops _
  · exact State.applyReset_cfg s
  · exact op.tick_cfg ops.length s.present s

/-- Settles O22: the shape is the definition of `initWords`; count, order and the case of five are the laws of
`initCommands` (R135, C1). -/
theorem initCommandsAreCounted : Obligations.InitCommandsAreCounted := fun c h =>
  ⟨rfl, initCommands_length h, initCommands_sublist c, initCommands_five⟩

end Sys2Proof.Machine

namespace Sys2Proof.Machine

/-! ### State and phases: what the tick of a µop writes (R31, R36) -/

/-- One tick of a µop of a transfer leaves alone what it does not name. -/
theorem BusOp.perform_frame (op : BusOp) (s : State) :
    (op.perform s).frame = s.frame ∧ sameButDriver s (op.perform s) := by
  cases op <;> simp [BusOp.perform, sameButDriver]

@[simp] theorem MicroOp.perform_call (op : MicroOp) (inp : Inputs) (s : State) :
    (op.perform inp s).call = s.call := by
  cases op with
  | bus b =>
    obtain ⟨-, -, -, -, -, -, -, -, hcall⟩ := b.perform_frame s
    exact hcall
  | adcSel | adcSample | adcConvert | adcPoll | adcRead | readBtn | decide | update | textEnd => rfl

/-- Snapshot and frame are written together, by `Update` alone (R181). -/
theorem MicroOp.perform_snap_frame (op : MicroOp) (inp : Inputs) (s : State) :
    (op = .update ∧ (op.perform inp s).snap = s.cur ∧ (op.perform inp s).frame = format s.cfg s.cur) ∨
      (op ≠ .update ∧ (op.perform inp s).snap = s.snap ∧ (op.perform inp s).frame = s.frame) := by
  cases op with
  | bus b =>
    obtain ⟨hframe, -, -, -, hsnap, -⟩ := b.perform_frame s
    exact .inr ⟨nofun, hsnap, hframe⟩
  | update => exact .inl ⟨rfl, rfl, rfl⟩
  | adcSel | adcSample | adcConvert | adcPoll | adcRead | readBtn | decide | textEnd => exact .inr ⟨nofun, rfl, rfl⟩

/-- The channel register is written by `AdcSel` alone (R23). -/
theorem MicroOp.perform_adcCh (op : MicroOp) (inp : Inputs) (s : State) :
    (∃ k, op = .adcSel k ∧ (op.perform inp s).adcCh = k) ∨ (op.perform inp s).adcCh = s.adcCh := by
  cases op with
  | bus b =>
    obtain ⟨-, -, hch, -⟩ := b.perform_frame s
    exact .inr hch
  | adcSel k => exact .inl ⟨k, rfl, rfl⟩
  | adcSample | adcConvert | adcPoll | adcRead | readBtn | decide | update | textEnd => exact .inr rfl

/-- The delay counter is written by `Delay` alone (R29). -/
theorem MicroOp.perform_dly (op : MicroOp) (inp : Inputs) (s : State) :
    (∃ d, op = .bus (.delay d) ∧ (op.perform inp s).dly = s.delayNext d) ∨ (op.perform inp s).dly = s.dly := by
  cases op with
  | bus b =>
    cases b with
    | delay d => exact .inl ⟨d, rfl, rfl⟩
    | setRs | setD | setE => exact .inr rfl
  | adcSel | adcSample | adcConvert | adcPoll | adcRead | readBtn | decide | update | textEnd => exact .inr rfl

/-- `E` after a tick of a µop is where the list of that one µop puts it. -/
theorem MicroOp.perform_lcdE (op : MicroOp) (inp : Inputs) (s : State) :
    (op.perform inp s).lcdE = levelAfter s.lcdE [op] := by
  cases op with
  | bus b =>
    cases b with
    | delay d => exact State.delayTick_lcdE s d
    | setRs | setD | setE => rfl
  | adcSel | adcSample | adcConvert | adcPoll | adcRead | readBtn | decide | update | textEnd => rfl

/-- Each µop that moves a line puts the level in the trace, and no other event names a line (R13, R31). -/
theorem MicroOp.perform_lines (op : MicroOp) (inp : Inputs) {s : State}
    (h : traceRs s.trace = s.lcdRs ∧ traceE s.trace = s.lcdE ∧ traceD s.trace = s.lcdD) :
    traceRs (op.perform inp s).trace = (op.perform inp s).lcdRs ∧
      traceE (op.perform inp s).trace = (op.perform inp s).lcdE ∧
      traceD (op.perform inp s).trace = (op.perform inp s).lcdD := by
  cases op with
  | bus b =>
    cases b with
    | delay d =>
      simp only [MicroOp.perform, BusOp.perform, State.delayTick_trace, State.delayTick_lcdRs, State.delayTick_lcdE,
        State.delayTick_lcdD]
      split <;> exact h
    | setRs l => exact ⟨rfl, h.2⟩
    | setD n => exact ⟨h.1, h.2.1, rfl⟩
    | setE l => exact ⟨h.1, rfl, h.2.2⟩
  | adcSel | adcSample | adcConvert | adcPoll | adcRead | readBtn | decide | update | textEnd => exact h

/-- The display sees nothing of a tick but a fall of `E`, which keeps its cells canonical (R13, R66). -/
theorem MicroOp.perform_cells_wf (op : MicroOp) (inp : Inputs) {s : State}
    (h : Memory.wf cellCap cellBlank s.lcd.panel.cells) :
    Memory.wf cellCap cellBlank (op.perform inp s).lcd.panel.cells := by
  cases op with
  | bus b =>
    cases b with
    | setE l =>
      simp only [MicroOp.perform, BusOp.perform, State.setE_lcd]
      split
      · exact Lcd.receive_wf _ _ h
      · exact h
    | delay d => simpa only [MicroOp.perform, BusOp.perform, State.delayTick_lcd] using h
    | setRs | setD => exact h
  | adcSel | adcSample | adcConvert | adcPoll | adcRead | readBtn | decide | update | textEnd => exact h

/-! ### State and phases: the tick of a µop that stays and of one that ends (R30) -/

/-- Control moved to `p`, nothing else changed. -/
def State.goto (p : Pc) (s : State) : State := { s with pc := p }

/-- The tick of a µop that stays: control stands where it stood. -/
theorem MicroOp.tick_of_holds {op : MicroOp} {inp : Inputs} {s : State} (h : op.holds inp s = true) (len : Nat) :
    op.tick len inp s = (op.perform inp s).goto s.pc := by
  rw [MicroOp.tick, if_pos h, State.goto]

/-- The tick of a µop that ends: control moves on. -/
theorem MicroOp.tick_of_not_holds {op : MicroOp} {inp : Inputs} {s : State} (h : op.holds inp s = false) (len : Nat) :
    op.tick len inp s = (op.perform inp s).goto (pcAfter len 1 (changed s.cur s.snap) s.pc) := by
  rw [MicroOp.tick, h, if_neg Bool.false_ne_true, State.goto]

/-! ### State and phases: which µop stands in which phase (R32, R36) -/

/-- Which µops the lists of R32 put in which phase. -/
inductive MicroOp.InPhase (c : Config) : Phase → MicroOp → Prop
  | init (b : BusOp) : InPhase c .init (.bus b)
  | sampleX {op : MicroOp} (h : op ∈ sampleAxisOps c .x) : InPhase c .sampleX op
  | sampleY {op : MicroOp} (h : op ∈ sampleAxisOps c .y) : InPhase c .sampleY op
  | buttons (k : Button) : InPhase c .buttons (.readBtn k)
  | decide : InPhase c .decide .decide
  | update : InPhase c .update .update
  | clear (b : BusOp) : InPhase c .clear (.bus b)
  | text (b : BusOp) : InPhase c .text (.bus b)
  | textEnd (n : Nat) : InPhase c .text (.textEnd n)
  | throttle : InPhase c .throttle (.bus (.delay .loop))

/-- Every µop of a phase's list belongs to that phase. -/
theorem inPhase_of_mem {c : Config} {f : Memory} {p : Phase} {ops : List MicroOp} {op : MicroOp}
    (h : phaseOps c f p = some ops) (hop : op ∈ ops) : op.InPhase c p := by
  cases p with
  | init =>
    cases h
    obtain ⟨b, -, rfl⟩ := List.mem_map.1 hop
    exact .init b
  | sampleX => cases h; exact .sampleX hop
  | sampleY => cases h; exact .sampleY hop
  | buttons =>
    cases h
    simp only [sampleButtonsOps, List.mem_cons, List.not_mem_nil, or_false] at hop
    rcases hop with rfl | rfl
    · exact .buttons .one
    · exact .buttons .two
  | decide => cases h; cases List.mem_singleton.1 hop; exact .decide
  | update => cases h; cases List.mem_singleton.1 hop; exact .update
  | clear =>
    cases h
    obtain ⟨b, -, rfl⟩ := List.mem_map.1 hop
    exact .clear b
  | text =>
    obtain ⟨text, -, rfl⟩ := Option.map_eq_some_iff.1 h
    rcases List.mem_append.1 hop with hb | he
    · obtain ⟨b, -, rfl⟩ := List.mem_map.1 hb
      exact .text b
    · cases List.mem_singleton.1 he; exact .textEnd _
  | throttle => cases h; cases List.mem_singleton.1 hop; exact .throttle

/-- The µop at `pc` belongs to the phase of `pc`. -/
theorem inPhase_of_current {s : State} {ops : List MicroOp} {op : MicroOp} (ho : s.ops = some ops)
    (hu : ops[s.pc.u]? = some op) : op.InPhase s.cfg s.pc.phase :=
  inPhase_of_mem ho (List.mem_of_getElem? hu)

/-- `Update` stands in its phase and nowhere else. -/
theorem MicroOp.InPhase.eq_update_iff {c : Config} {p : Phase} {op : MicroOp} (h : op.InPhase c p) :
    op = .update ↔ p = .update := by
  cases h with
  | sampleX h | sampleY h =>
    simp only [reduceCtorEq, iff_false]
    rintro rfl
    simp [sampleAxisOps] at h
  | init | buttons | decide | update | clear | text | textEnd | throttle => simp

/-- `AdcSel` names the channel of one of the axes (R62). -/
theorem MicroOp.InPhase.adcSel_channel {c : Config} {p : Phase} {k : Nat} (h : (MicroOp.adcSel k).InPhase c p) :
    ∃ r, k = channel c r := by
  cases h with
  | sampleX h => exact ⟨.x, by simpa [sampleAxisOps] using h⟩
  | sampleY h => exact ⟨.y, by simpa [sampleAxisOps] using h⟩


/-! ### State and phases: single ticks and resets (R30, R33, R37) -/

/-- Settles O24: the third case of the step, `step_eq`, is the statement (R33). -/
theorem stepPerformsOneTick : Obligations.StepPerformsOneTick := fun _ _ _ hcall hrst hops hop =>
  step_eq hcall hrst hops hop

/-- The state after reset is out of reset (R37). -/
theorem outOfReset_reset : outOfReset State.reset := ⟨rfl, rfl, rfl, rfl, rfl, rfl, rfl⟩

/-- Settles O26: each register has its entry of R37 by the definition of `State.reset`. -/
theorem resetState : Obligations.ResetState :=
  ⟨outOfReset_reset, rfl, rfl, rfl, rfl, fun _ => Memory.read_nil, rfl⟩

/-- A reset in the block's own run leads out of reset (R260). -/
theorem outOfReset_applyReset {s : State} (h : s.call = none) (n : Nat) : outOfReset (s.applyReset.elapse n) :=
  ⟨rfl, rfl, rfl, rfl, rfl, rfl, h⟩

/-- With `rst` high the step is the reset (R33). -/
theorem step_of_rst {s : State} (hcall : s.call = none) (hrst : s.present.rst = true) :
    step s = .next (s.applyReset.elapse 1) := by
  simp [step, hcall, tick, hrst]

/-- The list of `INIT` begins with `SetRS(0)` and goes on (R136). -/
theorem initOps_eq_cons (c : Config) : ∃ op l, initOps c = .setRs false :: op :: l := ⟨_, _, rfl⟩

/-- Out of reset with `rst` low the block performs `SetRS(0)` (R261, R263). -/
theorem step_of_outOfReset {s : State} (h : outOfReset s) (hrst : s.present.rst = false) :
    step s = .next ({ s.setRs false with pc := { phase := .init, u := 1 } }.elapse 1) := by
  obtain ⟨-, -, -, -, hpc, -, hcall⟩ := h
  obtain ⟨op, l, hinit⟩ := initOps_eq_cons s.cfg
  have hops : s.ops = some (.bus (.setRs false) :: .bus op :: l.map .bus) := by
    simp [State.ops, hpc, phaseOps, hinit]
  rw [step_eq hcall hrst hops (by rw [hpc]; rfl)]
  simp [MicroOp.tick, MicroOp.perform, BusOp.perform, MicroOp.holds, pcAfter, hpc]

/-- The display after a reset is one of those a reset can find (R204, R262). -/
theorem foundAtReset_atReset (e : Bool) (l : Lcd) : l.foundAtReset e (l.atReset e) := by
  obtain hkept | ⟨he, rs, n, hlatched⟩ | ⟨i, hrepowered⟩ := Lcd.atReset_cases e l
  · exact .inl (by simp [hkept])
  · exact .inr (.inl ⟨he, rs, n, hlatched⟩)
  · exact .inr (.inr ⟨i, by simp [hrepowered]⟩)

/-- Settles O25: the step is the reset, whose registers are those of R37, whose display is `foundAtReset_atReset`, and
after which `step_of_outOfReset` applies. -/
theorem resetFromAnyState : Obligations.ResetFromAnyState := by
  intro s hcall hrst
  have hout : outOfReset (s.applyReset.elapse 1) := outOfReset_applyReset hcall 1
  refine ⟨_, step_of_rst hcall hrst, hout, rfl, rfl, rfl, fun _ => Memory.read_nil, rfl, rfl, rfl,
    foundAtReset_atReset _ _, fun hlow => ?_⟩
  exact ⟨_, step_of_outOfReset hout hlow, rfl, rfl⟩

/-! ### State and phases: the registers a phase may write (R36) -/

/-- The access summary of R36: a register in which `t` differs from `s` is one that phase `p` writes. -/
def WritesOnlyOwn (p : Phase) (s t : State) : Prop :=
  (t.adcCh ≠ s.adcCh → p = .sampleX ∨ p = .sampleY) ∧
  (t.cur.x ≠ s.cur.x → p = .sampleX) ∧
  (t.cur.y ≠ s.cur.y → p = .sampleY) ∧
  (t.cur.b1 ≠ s.cur.b1 ∨ t.cur.b2 ≠ s.cur.b2 → p = .buttons) ∧
  (t.snap ≠ s.snap ∨ t.frame ≠ s.frame → p = .update) ∧
  (t.tcount ≠ s.tcount → p = .text) ∧
  (t.lcdRs ≠ s.lcdRs ∨ t.lcdE ≠ s.lcdE ∨ t.lcdD ≠ s.lcdD ∨ t.lcd ≠ s.lcd → p = .init ∨ p = .clear ∨ p = .text) ∧
  (t.dly ≠ s.dly → p ≠ .buttons ∧ p ≠ .decide ∧ p ≠ .update)

/-- A µop of a transfer writes the display's lines and the counter, which the three phases of transfers may. -/
theorem BusOp.writesOnlyOwn {p : Phase} (hp : p = .init ∨ p = .clear ∨ p = .text) (b : BusOp) (s : State) :
    WritesOnlyOwn p s (b.perform s) := by
  obtain ⟨hframe, -, hch, hcur, hsnap, -, htc, -⟩ := b.perform_frame s
  rw [WritesOnlyOwn, hch, hcur, hsnap, hframe, htc]
  refine ⟨by simp, by simp, by simp, by simp, by simp, by simp, fun _ => hp, fun _ => ?_⟩
  rcases hp with rfl | rfl | rfl <;> decide

/-- A `Delay` writes the counter only, which every phase with a transfer or a wait may. -/
theorem delay_writesOnlyOwn {p : Phase} (hp : p ≠ .buttons ∧ p ≠ .decide ∧ p ≠ .update) (d : DelayName) (s : State) :
    WritesOnlyOwn p s (s.delayTick d) := by
  simp [WritesOnlyOwn, hp]

/-- A tick of a µop writes only the registers of a phase the µop stands in. -/
theorem MicroOp.InPhase.writesOnlyOwn {p : Phase} {op : MicroOp} {s : State} (h : op.InPhase s.cfg p) (inp : Inputs) :
    WritesOnlyOwn p s (op.perform inp s) := by
  cases h with
  | init b => exact b.writesOnlyOwn (by simp) s
  | clear b => exact b.writesOnlyOwn (by simp) s
  | text b => exact b.writesOnlyOwn (by simp) s
  | throttle => exact delay_writesOnlyOwn (by decide) _ s
  | sampleX h | sampleY h =>
    simp only [sampleAxisOps, List.mem_cons, List.not_mem_nil, or_false] at h
    rcases h with rfl | rfl | rfl | rfl | rfl | rfl
    case inr.inr.inl => exact delay_writesOnlyOwn (by decide) _ s
    all_goals simp [WritesOnlyOwn, MicroOp.perform]
  | buttons k => cases k <;> simp [WritesOnlyOwn, MicroOp.perform]
  | decide | update | textEnd => simp [WritesOnlyOwn, MicroOp.perform]

/-- Settles O55: with nothing placed and `rst` low the step is the tick of a µop of the phase (R36). -/
theorem registersWrittenInTheirPhases : Obligations.RegistersWrittenInTheirPhases := by
  intro s t hcall hrst hstep
  rcases step_cases hstep with ⟨w, -, hplaced, -⟩ | ⟨-, hhigh, -⟩ | ⟨-, -, ops, op, hops, hop, rfl⟩
  · simp [hcall] at hplaced
  · simp [hrst] at hhigh
  · exact (inPhase_of_current hops hop).writesOnlyOwn s.present


/-! ### State and phases: every list ends with `E` low (R268) -/

theorem levelAfter_append (e : Bool) (k l : List MicroOp) :
    levelAfter e (k ++ l) = levelAfter (levelAfter e k) l := by
  fun_induction levelAfter e k with
  | case1 => rfl
  | case2 e l' k ih => exact ih
  | case3 e op k hne ih => rw [List.cons_append, levelAfter, ih]; exact hne

/-- A concatenation of transfers that each end with `E` low ends with `E` low. -/
theorem levelAfter_flatMap {α : Type} {f : α → List BusOp}
    (hf : ∀ a, levelAfter false ((f a).map .bus) = false) (l : List α) :
    levelAfter false ((l.flatMap f).map .bus) = false := by
  induction l with
  | nil => rfl
  | cons a l ih => rw [List.flatMap_cons, List.map_append, levelAfter_append, hf, ih]

/-- A word and the delay after it leave `E` low (R130, R132, R136). -/
theorem levelAfter_initStep (c : Config) (i : Instr) :
    levelAfter false ((initStep (wordOps c i)).map .bus) = false := by
  cases i <;> rfl

/-- So does the dispatch of a character (R139). -/
theorem levelAfter_charOps (c : Config) (ch : Byte) : levelAfter false ((charOps c ch).map .bus) = false := by
  unfold charOps
  split <;> rfl

/-- Every phase ends with `E` low. -/
theorem levelAfter_phaseOps {c : Config} {f : Memory} {p : Phase} {ops : List MicroOp} (h : phaseOps c f p = some ops) :
    levelAfter false ops = false := by
  cases p with
  | init => cases h; exact levelAfter_flatMap (levelAfter_initStep c) (initWords c)
  | text =>
    obtain ⟨text, -, rfl⟩ := Option.map_eq_some_iff.1 h
    rw [textOps, levelAfter_append, textBusOps, levelAfter_flatMap (levelAfter_charOps c)]
    rfl
  | sampleX | sampleY | buttons | decide | update | clear | throttle => cases h; rfl

/-- A µop that stays does not move `E`. -/
theorem MicroOp.levelAfter_of_holds {op : MicroOp} {inp : Inputs} {s : State} (h : op.holds inp s = true) (e : Bool) :
    levelAfter e [op] = e := by
  cases op with
  | bus b =>
    cases b with
    | delay d => rfl
    | setRs | setD | setE => simp [MicroOp.holds] at h
  | adcPoll => rfl
  | adcSel | adcSample | adcConvert | adcRead | readBtn | decide | update | textEnd => simp [MicroOp.holds] at h

/-! ### State and phases: where a tick leaves control (R30, R188) -/

/-- A tick holds `pc`, or moves it to the next µop of the list, or from the last µop into the next phase. -/
theorem MicroOp.tick_pc_cases (op : MicroOp) {ops : List MicroOp} (inp : Inputs) {s : State}
    (hu : ops[s.pc.u]? = some op) :
    (op.holds inp s = true ∧ (op.tick ops.length inp s).pc = s.pc) ∨
      (op.holds inp s = false ∧ s.pc.u + 1 < ops.length ∧
        (op.tick ops.length inp s).pc = { s.pc with u := s.pc.u + 1 }) ∨
      (op.holds inp s = false ∧ s.pc.u + 1 = ops.length ∧
        (op.tick ops.length inp s).pc = { phase := nextPhase (changed s.cur s.snap) s.pc.phase, u := 0 }) := by
  have hlt : s.pc.u < ops.length := (List.getElem?_eq_some_iff.1 hu).1
  cases hh : op.holds inp s with
  | true => exact .inl ⟨rfl, by rw [tick_of_holds hh]; rfl⟩
  | false =>
    by_cases hlast : s.pc.u + 1 < ops.length
    · exact .inr (.inl ⟨rfl, hlast, by rw [tick_of_not_holds hh, State.goto, pcAfter, if_pos hlast]⟩)
    · exact .inr (.inr ⟨rfl, by omega, by rw [tick_of_not_holds hh, State.goto, pcAfter, if_neg hlast]⟩)

/-- Outside `TEXT` a phase's list does not depend on the frame (R32). -/
theorem phaseOps_frame {p : Phase} (h : p ≠ .text) (c : Config) (f g : Memory) : phaseOps c f p = phaseOps c g p := by
  cases p with
  | text => exact absurd rfl h
  | init | sampleX | sampleY | buttons | decide | update | clear | throttle => rfl

/-- A tick that stays in its phase keeps the phase's list: only `Update` writes the frame, and the list of its phase does
not depend on it. -/
theorem MicroOp.InPhase.tick_ops {s : State} {op : MicroOp} (h : op.InPhase s.cfg s.pc.phase) {len : Nat} {inp : Inputs}
    (hpc : (op.tick len inp s).pc.phase = s.pc.phase) : (op.tick len inp s).ops = s.ops := by
  rw [State.ops, State.ops, op.tick_cfg, hpc]
  rcases op.perform_snap_frame inp s with ⟨rfl, -, -⟩ | ⟨-, -, hframe⟩
  · exact phaseOps_frame (by simp [h.eq_update_iff.1 rfl]) ..
  · exact congrArg (phaseOps s.cfg · s.pc.phase) hframe

/-- Each phase has a list with a µop in it, `TEXT` over a frame of the block (R32, R140). -/
theorem exists_phaseOps {c : Config} {f : Memory} {p : Phase} (hc : c.wf) (hf : p = .text → ∃ r, f = format c r) :
    ∃ ops, phaseOps c f p = some ops ∧ 0 < ops.length := by
  cases p with
  | text =>
    obtain ⟨r, rfl⟩ := hf rfl
    exact ⟨_, by rw [phaseOps, frameText_format hc]; rfl, by simp [textOps]⟩
  | init | sampleX | sampleY | buttons | decide | update | clear | throttle => exact ⟨_, rfl, Nat.succ_pos _⟩

/-- Control enters `CLEAR` from `UPDATE` only (R32). -/
theorem eq_update_of_nextPhase_eq_clear {chg : Bool} {p : Phase} (h : nextPhase chg p = .clear) : p = .update := by
  cases p <;> cases chg <;> simp [nextPhase] at h ⊢

/-- Control enters `TEXT` from `CLEAR` only (R32). -/
theorem eq_clear_of_nextPhase_eq_text {chg : Bool} {p : Phase} (h : nextPhase chg p = .text) : p = .clear := by
  cases p <;> cases chg <;> simp [nextPhase] at h ⊢

/-! ### State and phases: the invariant (R183, R262, R268) -/

/-- The block just out of reset, with well-formed parameters and surroundings, meets the invariant. -/
theorem inv_of_outOfReset {s : State} (h : outOfReset s) (hparams : s.cfg.wf) (hch : s.adcCh = 0)
    (hframe : s.frame = []) (hcells : Memory.wf cellCap cellBlank s.lcd.panel.cells) : Inv s := by
  obtain ⟨hrs, he, hd, hdly, hpc, htrace, hcall⟩ := h
  have hops : s.ops = some ((initOps s.cfg).map .bus) := by rw [State.ops, hpc]; rfl
  exact {
    idle := hcall
    params := hparams
    frameWf := hframe ▸ Memory.wf_nil
    cellsWf := hcells
    channelFits := hch ▸ Nat.two_pow_pos _
    control := ⟨_, hops, by rw [hpc]; exact Nat.succ_pos _⟩
    counter := fun hne => absurd hdly hne
    enable := fun _ _ => by rw [he, hpc]; rfl
    lines := by rw [htrace, hrs, he, hd]; exact ⟨rfl, rfl, rfl⟩
    shown := .inr ⟨hframe, by simp [hpc], by simp [hpc]⟩ }

/-- The parameters of the machine out of reset meet their constraints, whatever the free delays are. -/
theorem wf_platform : Config.platform.wf :=
  ⟨by decide, by decide, by simp [Config.delaysPositive, Config.platform], by decide, by decide, by decide⟩

/-- Settles O48: the state after reset is out of reset, and its display's cells are those of a free panel. -/
theorem invariantAtReset : Obligations.InvariantAtReset :=
  inv_of_outOfReset outOfReset_reset wf_platform rfl rfl (Lcd.free_wf 0)

/-- A reset from a state of the invariant leads to a state of the invariant (R260, R262). -/
theorem Inv.applyReset {s : State} (h : Inv s) (n : Nat) : Inv (s.applyReset.elapse n) :=
  inv_of_outOfReset (outOfReset_applyReset h.idle n) h.params rfl rfl (Lcd.atReset_wf _ h.cellsWf)

/-- Under well-formed parameters every delay takes a tick (R6). -/
theorem delayTicks_pos {c : Config} (h : c.delaysPositive) (d : DelayName) : 1 ≤ delayTicks c d := by
  obtain ⟨heHold, hsettle, hinit, hsample, hloop⟩ := h
  cases d <;> assumption

/-- A counter that is at rest or below the length of the delay is below it one tick later (R29). -/
theorem State.delayNext_lt {s : State} {d : DelayName} (hpos : 1 ≤ delayTicks s.cfg d)
    (h : s.dly ≠ 0 → s.dly < delayTicks s.cfg d) : s.delayNext d < delayTicks s.cfg d := by
  unfold State.delayNext
  split <;> omega

/-- A tick keeps the frame buffer canonical. -/
theorem MicroOp.perform_frame_wf (op : MicroOp) (inp : Inputs) {s : State} (h : Memory.wf frameCap frameBlank s.frame) :
    Memory.wf frameCap frameBlank (op.perform inp s).frame := by
  rcases op.perform_snap_frame inp s with ⟨-, -, hframe⟩ | ⟨-, -, hframe⟩ <;> rw [hframe]
  · exact format_wf ..
  · exact h

/-- A tick keeps the channel register within its width (R23, R62). -/
theorem MicroOp.InPhase.perform_adcCh_lt {p : Phase} {op : MicroOp} {s : State} (hin : op.InPhase s.cfg p)
    (inp : Inputs) (hc : s.cfg.wf) (h : s.adcCh < 2 ^ s.cfg.chW) : (op.perform inp s).adcCh < 2 ^ s.cfg.chW := by
  rcases op.perform_adcCh inp s with ⟨k, rfl, hch⟩ | hch <;> rw [hch]
  · obtain ⟨-, ⟨-, hx, hy⟩, -⟩ := hc
    obtain ⟨r, rfl⟩ := hin.adcSel_channel
    cases r
    · exact hx
    · exact hy
  · exact h

section
/-! A tick of the µop `op` at `pc` of a state of the invariant, under any inputs with `rst` low. -/

variable {s : State} {ops : List MicroOp} {op : MicroOp}

/-- Both clauses of `shown` pass through a tick: `Update` makes the frame show the snapshot, every other µop leaves both,
and `CLEAR` is entered by `Update` only. -/
theorem Inv.tick_shown (h : Inv s) (hops : s.ops = some ops) (hop : ops[s.pc.u]? = some op) (inp : Inputs) :
    let t := op.tick ops.length inp s
    t.frame = format t.cfg t.snap ∨ (t.frame = [] ∧ t.pc.phase ≠ .clear ∧ t.pc.phase ≠ .text) := by
  have hin := inPhase_of_current hops hop
  intro t
  have hcfg : t.cfg = s.cfg := op.tick_cfg ops.length inp s
  rcases op.perform_snap_frame inp s with ⟨-, hsnap, hframe⟩ | ⟨hne, hsnap, hframe⟩
  · exact .inl (by rw [hcfg]; exact hframe.trans (congrArg _ hsnap.symm))
  rcases h.shown with hshown | ⟨hnil, hclear, htext⟩
  · exact .inl (by rw [hcfg]; exact (hframe.trans hshown).trans (congrArg _ hsnap.symm))
  refine .inr ⟨hframe.trans hnil, ?_⟩
  rcases op.tick_pc_cases inp hop with ⟨-, hpc⟩ | ⟨-, -, hpc⟩ | ⟨-, -, hpc⟩ <;> simp only [t, hpc]
  · exact ⟨hclear, htext⟩
  · exact ⟨hclear, htext⟩
  · exact ⟨fun hn => hne (hin.eq_update_iff.2 (eq_update_of_nextPhase_eq_clear hn)),
      fun hn => hclear (eq_clear_of_nextPhase_eq_text hn)⟩

/-- After a tick `pc` is on a µop of its phase, and `E` is where the µops before it put it: in the same list one µop
further or not, or at the start of the next one, which the last list reached with `E` low. -/
theorem Inv.tick_control_enable (h : Inv s) (hops : s.ops = some ops) (hop : ops[s.pc.u]? = some op) (inp : Inputs) :
    let t := op.tick ops.length inp s
    ∃ ops', t.ops = some ops' ∧ t.pc.u < ops'.length ∧ t.lcdE = levelAfter false (ops'.take t.pc.u) := by
  have hin := inPhase_of_current hops hop
  have hlt : s.pc.u < ops.length := (List.getElem?_eq_some_iff.1 hop).1
  have hlevel : (op.perform inp s).lcdE = levelAfter false (ops.take (s.pc.u + 1)) := by
    rw [op.perform_lcdE, h.enable ops hops, ← levelAfter_append, List.take_add_one, hop, Option.toList_some]
  intro t
  have hcfg : t.cfg = s.cfg := op.tick_cfg ops.length inp s
  rcases op.tick_pc_cases inp hop with ⟨hholds, hpc⟩ | ⟨-, hmore, hpc⟩ | ⟨-, hlast, hpc⟩
  · refine ⟨ops, (hin.tick_ops (by rw [hpc])).trans hops, by rw [hpc]; exact hlt, ?_⟩
    rw [hpc, ← h.enable ops hops, ← op.levelAfter_of_holds hholds s.lcdE]
    exact op.perform_lcdE inp s
  · refine ⟨ops, (hin.tick_ops (by rw [hpc])).trans hops, by rw [hpc]; exact hmore, ?_⟩
    rw [hpc]
    exact hlevel
  · have hshown : t.pc.phase = .text → ∃ r, t.frame = format t.cfg r := fun htext =>
      (h.tick_shown hops hop inp).elim (fun hf => ⟨_, hf⟩) fun hf => absurd htext hf.2.2
    obtain ⟨ops', hops', hpos⟩ := exists_phaseOps (hcfg ▸ h.params : t.cfg.wf) hshown
    refine ⟨ops', hops', by rw [hpc]; exact hpos, ?_⟩
    rw [hlast, List.take_length, levelAfter_phaseOps hops] at hlevel
    rw [hpc]
    exact hlevel

/-- After a tick `dly` is not 0 only at a `Delay` that stays, with the counter below its length (R29). -/
theorem Inv.tick_counter (h : Inv s) (hops : s.ops = some ops) (hop : ops[s.pc.u]? = some op) (inp : Inputs) :
    let t := op.tick ops.length inp s
    t.dly ≠ 0 → ∃ d, t.currentOp = some (.bus (.delay d)) ∧ t.dly < delayTicks t.cfg d := by
  have hcur : s.currentOp = some op := by rw [State.currentOp, hops]; exact hop
  intro t hne
  have hdelay : ∃ d, op = .bus (.delay d) := by
    rcases op.perform_dly inp s with ⟨d, hd, -⟩ | hdly
    · exact ⟨d, hd⟩
    · obtain ⟨d, hd, -⟩ := h.counter (hdly ▸ hne)
      exact ⟨d, Option.some.inj (hcur.symm.trans hd)⟩
  obtain ⟨d, rfl⟩ := hdelay
  have hbelow : s.dly ≠ 0 → s.dly < delayTicks s.cfg d := fun hrun => by
    obtain ⟨d', hd', hlt⟩ := h.counter hrun
    cases hcur.symm.trans hd'
    exact hlt
  have hcfg : t.cfg = s.cfg := MicroOp.tick_cfg ..
  have hpc : t.pc = s.pc := if_pos (bne_iff_ne.2 hne)
  refine ⟨d, ?_, ?_⟩
  · rw [State.currentOp, (inPhase_of_current hops hop).tick_ops (congrArg Pc.phase hpc), hpc]
    exact hcur
  · rw [hcfg]
    obtain ⟨-, -, hpos, -⟩ := h.params
    exact State.delayNext_lt (delayTicks_pos hpos d) hbelow

/-- A tick of the µop at `pc` keeps the invariant. -/
theorem Inv.tick (h : Inv s) (hops : s.ops = some ops) (hop : ops[s.pc.u]? = some op) (inp : Inputs) :
    Inv (op.tick ops.length inp s) := by
  obtain ⟨ops', hops', hlt, hlevel⟩ := h.tick_control_enable hops hop inp
  have hcfg : (op.tick ops.length inp s).cfg = s.cfg := op.tick_cfg ops.length inp s
  exact {
    idle := (op.perform_call inp s).trans h.idle
    params := hcfg ▸ h.params
    frameWf := op.perform_frame_wf inp h.frameWf
    cellsWf := op.perform_cells_wf inp h.cellsWf
    channelFits := hcfg ▸ (inPhase_of_current hops hop).perform_adcCh_lt inp h.params h.channelFits
    control := ⟨ops', hops', hlt⟩
    counter := h.tick_counter hops hop inp
    enable := fun _ hsome => Option.some.inj (hops'.symm.trans hsome) ▸ hlevel
    lines := op.perform_lines inp h.lines
    shown := h.tick_shown hops hop inp }

end

/-- The invariant does not speak of the inputs and of the time. -/
theorem Inv.elapse {s : State} (h : Inv s) (n : Nat) : Inv (s.elapse n) := by
  obtain ⟨idle, params, frameWf, cellsWf, channelFits, control, counter, enable, lines, shown⟩ := h
  exact ⟨idle, params, frameWf, cellsWf, channelFits, control, counter, enable, lines, shown⟩

/-- Settles O49: a step from the invariant, which has nothing placed, is a reset or the tick of the µop at `pc`. -/
theorem stepKeepsInvariant : Obligations.StepKeepsInvariant := by
  intro s t h hstep
  rcases step_cases hstep with ⟨w, -, hplaced, -⟩ | ⟨-, -, rfl⟩ | ⟨-, -, ops, op, hops, hop, rfl⟩
  · simp [h.idle] at hplaced
  · exact h.applyReset 1
  · exact (h.tick hops hop s.present).elapse 1

/-! ### State and phases: a `Delay` in the hard-wired sequence (R29, R30) -/

/-- A run of one step. -/
theorem run_one {s t : State} (h : step s = .next t) : run 1 s = .next t := by
  rw [run_succ h, run_zero]

/-- A run and one step more. -/
theorem run_then_step {n : Nat} {s t u : State} (h : run n s = .next t) (hstep : step t = .next u) :
    run (n + 1) s = .next u := by
  rw [run_add h, run_one hstep]

/-- The first tick of a `Delay`: the event, and `P - 1` in the counter. -/
theorem delayTick_of_rest {s : State} (h : s.dly = 0) (d : DelayName) :
    s.delayTick d = { s.emit (.delay d) with dly := delayTicks s.cfg d - 1 } := by
  simp [State.delayTick, State.delayEvent, State.delayNext, h]

/-- A later tick of a `Delay`: the counter goes down by one. -/
theorem delayTick_of_running {s : State} (h : s.dly ≠ 0) (d : DelayName) :
    s.delayTick d = { s with dly := s.dly - 1 } := by
  simp [State.delayTick, State.delayEvent, State.delayNext, h]

/-- After `j` ticks of a `Delay(P)` entered in `s`: the event made, and `P - j` in the counter. -/
def State.insideDelay (d : DelayName) : Nat → State → State
  | 0, s => s
  | j + 1, s => { s.emit (.delay d) with dly := delayTicks s.cfg d - (j + 1) }.elapse (j + 1)

section
variable (d : DelayName) (j : Nat) (s : State)

@[simp] theorem insideDelay_call : (s.insideDelay d j).call = s.call := by cases j <;> rfl
@[simp] theorem insideDelay_pc : (s.insideDelay d j).pc = s.pc := by cases j <;> rfl
@[simp] theorem insideDelay_ops : (s.insideDelay d j).ops = s.ops := by cases j <;> rfl
@[simp] theorem insideDelay_cur : (s.insideDelay d j).cur = s.cur := by cases j <;> rfl
@[simp] theorem insideDelay_snap : (s.insideDelay d j).snap = s.snap := by cases j <;> rfl

@[simp] theorem insideDelay_present : (s.insideDelay d j).present = s.inputAt j := by
  cases j with
  | zero => rfl
  | succ j => exact State.inputAt_elapse _ (j + 1) 0

end

section
variable {d : DelayName} {j : Nat} {s : State} (hrest : s.dly = 0)
include hrest

/-- With the counter at 0 again, a `Delay` has left its event and its ticks. -/
theorem insideDelay_end (hlast : delayTicks s.cfg d = j + 1) :
    s.insideDelay d (j + 1) = (s.emit (.delay d)).elapse (j + 1) := by
  rw [State.insideDelay, hlast, Nat.sub_self, ← hrest]
  rfl

variable (hlt : j < delayTicks s.cfg d)
include hlt

/-- The counter of a `Delay` after one tick more. -/
theorem insideDelay_delayNext : (s.insideDelay d j).delayNext d = delayTicks s.cfg d - (j + 1) := by
  cases j with
  | zero => exact if_pos hrest
  | succ j => exact if_neg (Nat.sub_ne_zero_of_lt hlt)

/-- The state after one tick more of a `Delay`. -/
theorem insideDelay_delayTick : ((s.insideDelay d j).delayTick d).elapse 1 = s.insideDelay d (j + 1) := by
  cases j with
  | zero => exact congrArg (State.elapse 1) (delayTick_of_rest hrest d)
  | succ j =>
    have hrun : (s.insideDelay d (j + 1)).dly ≠ 0 := Nat.sub_ne_zero_of_lt hlt
    rw [delayTick_of_running hrun]
    exact State.elapse_elapse { s.emit (.delay d) with dly := delayTicks s.cfg d - (j + 2) } (j + 1) 1

end

section
variable {s : State} {d : DelayName} {ops : List MicroOp} (hcall : s.call = none) (hrest : s.dly = 0)
  (hops : s.ops = some ops) (hop : ops[s.pc.u]? = some (.bus (.delay d))) (hlow : s.rstLow (delayTicks s.cfg d))
include hcall hops hop hlow

/-- Every step inside a `Delay(P)` is a tick of it. -/
theorem step_insideDelay {j : Nat} (hlt : j < delayTicks s.cfg d) :
    step (s.insideDelay d j) =
      .next (((MicroOp.bus (.delay d)).tick ops.length (s.inputAt j) (s.insideDelay d j)).elapse 1) := by
  rw [step_eq (ops := ops) (op := .bus (.delay d)) (by simpa using hcall) (by simpa using hlow j hlt)
    (by simpa using hops) (by simpa using hop), insideDelay_present]

include hrest

/-- A `Delay(P)` holds `pc` for its first `P - 1` ticks, counting down. -/
theorem run_insideDelay {j : Nat} (hlt : j < delayTicks s.cfg d) : run j s = .next (s.insideDelay d j) := by
  induction j with
  | zero => rfl
  | succ j ih =>
    have hlt' : j < delayTicks s.cfg d := by omega
    have hholds : (MicroOp.bus (.delay d)).holds (s.inputAt j) (s.insideDelay d j) = true := by
      rw [MicroOp.holds, insideDelay_delayNext hrest hlt', bne_iff_ne]
      omega
    rw [run_then_step (ih hlt') (step_insideDelay hcall hops hop hlow hlt'), MicroOp.tick_of_holds hholds,
      ← insideDelay_delayTick hrest hlt', ← State.delayTick_pc _ d]
    rfl

/-- A `Delay(P)` with `P` at least 1 leaves at its `P`-th tick, with the counter at 0. -/
theorem run_delay (hpos : 1 ≤ delayTicks s.cfg d) :
    run (delayTicks s.cfg d) s = .next (((s.emit (.delay d)).elapse (delayTicks s.cfg d)).goto
      (pcAfter ops.length 1 (changed s.cur s.snap) s.pc)) := by
  obtain ⟨j, hlast⟩ : ∃ j, delayTicks s.cfg d = j + 1 := ⟨delayTicks s.cfg d - 1, by omega⟩
  have hlt : j < delayTicks s.cfg d := by omega
  have hends : (MicroOp.bus (.delay d)).holds (s.inputAt j) (s.insideDelay d j) = false := by
    rw [MicroOp.holds, insideDelay_delayNext hrest hlt, hlast, Nat.sub_self]
    rfl
  rw [hlast, run_then_step (run_insideDelay hcall hrest hops hop hlow hlt) (step_insideDelay hcall hops hop hlow hlt),
    MicroOp.tick_of_not_holds hends, ← insideDelay_end hrest hlast, ← insideDelay_delayTick hrest hlt]
  simp only [insideDelay_cur, insideDelay_snap, insideDelay_pc]
  rfl

end

/-- Settles O28: `run_insideDelay` before the last tick, `run_delay` with it. -/
theorem delayOccupiesItsTicks : Obligations.DelayOccupiesItsTicks := by
  intro s d ops hcall hpos hrest hops hop hlow
  refine ⟨fun j hj hlt => ?_, run_delay hcall hrest hops hop hlow hpos⟩
  rw [run_insideDelay hcall hrest hops hop hlow hlt]
  cases j with
  | zero => exact absurd hj (Nat.lt_irrefl 0)
  | succ j => rfl

/-! ### State and phases: the words in the hard-wired sequence (R31, R33, R280) -/

/-- A `Delay` from rest, with all its ticks. -/
theorem delayAll_of_rest {s : State} (h : s.dly = 0) (d : DelayName) :
    s.delayAll d = (s.emit (.delay d)).elapse (delayTicks s.cfg d) := by
  rw [State.delayAll, State.delayEvent, State.delayLeft, if_pos h, if_pos h, ← h]
  rfl

/-- A `Delay` does not look at the control state. -/
theorem State.delayAll_goto (d : DelayName) (p : Pc) (s : State) : (s.goto p).delayAll d = (s.delayAll d).goto p := by
  by_cases h : s.dly = 0
  · rw [delayAll_of_rest h, delayAll_of_rest (s := s.goto p) h]
    rfl
  · simp [State.delayAll, State.delayEvent, State.delayLeft, State.goto, h]
    rfl

section
variable (op : BusOp) (s : State)

/-- A transfer µop does not look at the control state. -/
theorem BusOp.run_goto (p : Pc) : op.run (s.goto p) = (op.run s).goto p := by
  cases op with
  | delay d => exact State.delayAll_goto d p s
  | setRs | setD | setE => rfl

/-- After a transfer µop the list is the same, wherever in it control goes. -/
theorem BusOp.run_goto_ops (u : Nat) : ((op.run s).goto { s.pc with u := u }).ops = s.ops := by
  obtain ⟨hframe, hcfg, -⟩ := op.run_frame s
  exact congrArg₂ (phaseOps · · s.pc.phase) hcfg hframe

variable {s} (hrest : s.dly = 0)
include hrest

/-- A transfer µop leaves the counter at rest. -/
theorem BusOp.run_dly : (op.run s).dly = 0 := by
  cases op with
  | delay d => exact State.delayAll_dly s d
  | setRs | setD | setE => exact hrest

/-- After a transfer µop from rest the inputs have moved on by its ticks. -/
theorem BusOp.run_inputAt (k : Nat) : (op.run s).inputAt k = s.inputAt (op.ticks s.cfg + k) := by
  cases op with
  | delay d => rw [BusOp.run, delayAll_of_rest hrest]; exact State.inputAt_elapse _ _ k
  | setRs | setD | setE => exact State.inputAt_elapse _ 1 k

end

theorem runBus_goto (l : List BusOp) (p : Pc) (s : State) : runBus l (s.goto p) = (runBus l s).goto p := by
  induction l generalizing s with
  | nil => rfl
  | cons op l ih => rw [runBus_cons, op.run_goto, ih, runBus_cons]

/-- One µop further and `n` more is `n + 1` further. -/
theorem pcAfter_next (len n : Nat) (chg : Bool) (pc : Pc) :
    pcAfter len n chg { pc with u := pc.u + 1 } = pcAfter len (n + 1) chg pc := by
  simp only [pcAfter, Nat.add_assoc, Nat.add_comm 1 n]

/-- The ticks of a transfer µop in the sequence are the µop, and `pc` moves past it. -/
theorem run_busOp {op : BusOp} {s : State} {ops : List MicroOp} (hcall : s.call = none) (hpos : s.cfg.delaysPositive)
    (hrest : s.dly = 0) (hops : s.ops = some ops) (hop : ops[s.pc.u]? = some (.bus op))
    (hlow : s.rstLow (op.ticks s.cfg)) :
    run (op.ticks s.cfg) s =
      .next ((op.run s).goto (pcAfter ops.length 1 (changed s.cur s.snap) s.pc)) := by
  cases op with
  | delay d =>
    rw [BusOp.run, delayAll_of_rest hrest]
    exact run_delay hcall hrest hops hop hlow (delayTicks_pos hpos d)
  | setRs | setD | setE =>
    refine run_one ((step_eq hcall (hlow 0 Nat.zero_lt_one) hops hop).trans ?_)
    rw [MicroOp.tick_of_not_holds rfl]
    rfl

/-- The ticks of a transfer in the sequence are the transfer, and `pc` moves past its µops. The parameters and the
changed flag, which a transfer keeps, have names of their own, so that the induction keeps them. -/
theorem run_transfer {l : List BusOp} (hne : l ≠ []) {c : Config} {chg : Bool} (hpos : c.delaysPositive)
    {ops rest : List MicroOp} {s : State} (hcfg : s.cfg = c) (hchg : changed s.cur s.snap = chg) (hcall : s.call = none)
    (hrest : s.dly = 0) (hops : s.ops = some ops) (hdrop : ops.drop s.pc.u = l.map .bus ++ rest)
    (hlow : s.rstLow (busTicks c l)) :
    run (busTicks c l) s = .next ((runBus l s).goto (pcAfter ops.length l.length chg s.pc)) := by
  induction l generalizing s with
  | nil => exact absurd rfl hne
  | cons op l ih =>
    subst hcfg hchg
    have hop : ops[s.pc.u]? = some (.bus op) := by
      rw [← Nat.add_zero s.pc.u, ← List.getElem?_drop, hdrop]
      rfl
    have hfirst := run_busOp hcall hpos hrest hops hop (rstLow_mono hlow (Nat.le_add_right ..))
    rw [busTicks_cons, run_add hfirst]
    cases l with
    | nil => rfl
    | cons op' l =>
      have hmore : s.pc.u + 1 < ops.length := by
        have := congrArg List.length hdrop
        simp only [List.length_drop, List.length_append, List.length_map, List.length_cons] at this
        omega
      have hpc : pcAfter ops.length 1 (changed s.cur s.snap) s.pc = { s.pc with u := s.pc.u + 1 } := if_pos hmore
      have hdrop' : ops.drop (s.pc.u + 1) = (op' :: l).map .bus ++ rest := by
        rw [← List.drop_drop, hdrop]
        rfl
      have hlow' : (op.run s).rstLow (busTicks s.cfg (op' :: l)) := fun k hk => by
        rw [op.run_inputAt hrest]
        exact hlow _ (Nat.add_lt_add_left hk _)
      obtain ⟨-, hcfg, -, hcur, hsnap, -, -, -, hcall'⟩ := op.run_frame s
      have hthen := ih (s := (op.run s).goto { s.pc with u := s.pc.u + 1 }) (List.cons_ne_nil op' l) hcfg
        (congrArg₂ changed hcur hsnap) (hcall'.trans hcall) (op.run_dly hrest)
        ((op.run_goto_ops s _).trans hops) hdrop' hlow'
      rw [hpc, hthen, runBus_goto, List.length_cons (a := op), ← pcAfter_next]
      rfl

/-- Settles O27: a word is the transfer of its list (`exec_is_transfer`), and the list of no word is empty. -/
theorem sequenceRunsWords : Obligations.SequenceRunsWords := by
  intro i s ops rest hcall hpos hrest hops hdrop hlow
  have hne : wordOps s.cfg i ≠ [] := by cases i <;> exact List.cons_ne_nil _ _
  exact ⟨_, exec_is_transfer i s, run_transfer hne hpos rfl rfl hcall hrest hops hdrop hlow⟩

end Sys2Proof.Machine

namespace Sys2Proof.Machine

/-! ### Memory: both memories stay canonical (R60, R207) -/

/-- The display cannot tell a transfer µop run whole from one tick of it: only a fall of `E` reaches it (R13, R66). -/
theorem BusOp.run_lcd (op : BusOp) (s : State) : (op.run s).lcd = (op.perform s).lcd := by
  cases op with
  | delay d => exact (State.delayAll_lcd s d).trans (State.delayTick_lcd s d).symm
  | setRs | setD | setE => rfl

/-- A transfer keeps the display cells canonical. -/
theorem runBus_cells_wf (ops : List BusOp) {s : State} (h : Memory.wf cellCap cellBlank s.lcd.panel.cells) :
    Memory.wf cellCap cellBlank (runBus ops s).lcd.panel.cells := by
  induction ops generalizing s with
  | nil => exact h
  | cons op ops ih =>
    have hcells : Memory.wf cellCap cellBlank (op.run s).lcd.panel.cells := by
      rw [op.run_lcd]
      exact MicroOp.perform_cells_wf (.bus op) s.present h
    exact ih hcells

/-- A transfer keeps the frame buffer. -/
@[simp] theorem runBus_frameBuffer (ops : List BusOp) (s : State) : (runBus ops s).frame = s.frame := by
  obtain ⟨hframe, -⟩ := runBus_frame ops s
  exact hframe

/-- Settles O51: a placed word's transfer, a reset and the tick of a µop each keep both memories canonical. -/
theorem stepKeepsMemoriesCanonical : Obligations.StepKeepsMemoriesCanonical := by
  intro s t hframe hcells h
  obtain ⟨_, ops, -, rfl⟩ | ⟨-, -, rfl⟩ | ⟨-, -, ops, op, -, -, rfl⟩ := step_cases h
  · rw [runBus_frameBuffer]
    exact ⟨hframe, runBus_cells_wf ops hcells⟩
  · exact ⟨Memory.wf_nil, Lcd.atReset_wf s.lcdE hcells⟩
  · exact ⟨op.perform_frame_wf s.present hframe, op.perform_cells_wf s.present hcells⟩

end Sys2Proof.Machine

namespace Sys2Proof.Machine

/-! ### Encoding: decoder and encoder are inverse (R90 to R107) -/

/-- The nibble of an N5 word is not lost in it (R91). -/
theorem n5Word_inj {rs : Bool} {n m : Nibble} : n5Word rs n = n5Word rs m ↔ n = m :=
  ⟨fun h => by simpa using congrArg n5Nibble h, congrArg _⟩

/-- A command word is decoded by its value alone (R98 to R103). -/
theorem decode_of_decodeCommand {c : Config} {v : Byte} {i : Instr} (h : decodeCommand c v = some i) :
    decode c (.b9 (b9Word false v)) = .ok i := by
  simp [decode, decodeB9, h]

/-- Codes that are told apart are each the code of their own command (R98 to R103). -/
theorem decodeCommand_codes {c : Config} (h : c.codesDistinct) :
    decodeCommand c c.functionSetCode = some .functionSet ∧ decodeCommand c c.displayOffCode = some .displayOff ∧
      decodeCommand c c.clearCode = some .clearDisplay ∧ decodeCommand c c.entryModeCode = some .entryMode ∧
      decodeCommand c c.displayOnCode = some .displayOn ∧ decodeCommand c c.line2Code = some .setLine2 := by
  obtain ⟨-, hcodes⟩ := h
  simp only [List.nodup_cons, List.mem_cons, List.not_mem_nil, or_false, not_or] at hcodes
  refine ⟨?_, ?_, ?_, ?_, ?_, ?_⟩ <;> grind [decodeCommand]

/-- Settles O1: the two N5 words differ in their nibble, a command word is told by its code, a data word by `rs`. -/
theorem decodeOfEncode : Obligations.DecodeOfEncode := by
  intro c i hdistinct _
  obtain ⟨hfunction, hoff, hclear, hentry, hon, hline2⟩ := decodeCommand_codes hdistinct
  obtain ⟨hnibbles, -⟩ := hdistinct
  cases i with
  | wake => exact if_pos rfl
  | mode4 => simp [encode, decode, decodeN5, n5Word_inj, hnibbles.symm]
  | functionSet => exact decode_of_decodeCommand hfunction
  | displayOff => exact decode_of_decodeCommand hoff
  | clearDisplay => exact decode_of_decodeCommand hclear
  | entryMode => exact decode_of_decodeCommand hentry
  | displayOn => exact decode_of_decodeCommand hon
  | setLine2 => exact decode_of_decodeCommand hline2
  | writeChar v => simp [encode, decode, decodeB9]

/-- A value that decodes to a command is the code of that command (R98 to R103). -/
theorem encode_of_decodeCommand {c : Config} {v : Byte} {i : Instr} (h : decodeCommand c v = some i) :
    encode c i = .b9 (b9Word false v) := by
  unfold decodeCommand at h
  split_ifs at h <;> cases h <;> subst v <;> rfl

/-- An N5 word that decodes is one of the two (R96, R97). -/
theorem encode_of_decodeN5 {c : Config} {w : BitVec 5} {i : Instr} (h : decodeN5 c w = .ok i) : encode c i = .n5 w := by
  unfold decodeN5 at h
  split_ifs at h <;> cases h <;> subst w <;> rfl

/-- A B9 word that decodes is a data word or one of the six command words (R98 to R104). -/
theorem encode_of_decodeB9 {c : Config} {w : BitVec 9} {i : Instr} (h : decodeB9 c w = .ok i) : encode c i = .b9 w := by
  unfold decodeB9 at h
  split at h
  next hrs =>
    cases h
    rw [encode, ← hrs, b9Word_eta]
  next hrs =>
    split at h
    next hcommand =>
      cases h
      rw [encode_of_decodeCommand hcommand, ← Bool.eq_false_of_not_eq_true hrs, b9Word_eta]
    next => cases h

/-- Settles O2: in each format the value that was compared is the whole word. -/
theorem encodeOfDecode : Obligations.EncodeOfDecode := by
  intro c w i h
  cases w with
  | n5 w => exact encode_of_decodeN5 h
  | b9 w => exact encode_of_decodeB9 h

/-- Every instruction is well formed, its operand being any 8-bit value (R104). -/
theorem instr_wf (i : Instr) : i.wf = true := by
  cases i <;> rfl

/-- The defaults of R6 tell the words apart (D8, D9). -/
theorem codesDistinct_platform : Config.platform.codesDistinct := by decide

/-- A table word that is the word of an instruction is read as that instruction. -/
theorem decodeTableWord_of_encode {nbits w : Nat} {i : Instr} (h : tableWord nbits w = some (encode Config.platform i)) :
    decodeTableWord nbits w = some i := by
  simp [decodeTableWord, h, decodeOfEncode _ i codesDistinct_platform (instr_wf i)]

/-- Settles O3: the six are the words of their instructions under the defaults, bit for bit. -/
theorem tableWordsDecode : Obligations.TableWordsDecode :=
  ⟨decodeTableWord_of_encode (by decide), decodeTableWord_of_encode (by decide), decodeTableWord_of_encode (by decide),
    decodeTableWord_of_encode (by decide), decodeTableWord_of_encode (by decide), decodeTableWord_of_encode (by decide)⟩

/-! ### Encoding: one `NIBBLE` and one `BYTE` from any state (R130, R132) -/

/-- The events of one `NIBBLE`, the hold delay's only if the counter was at rest (R130, log 26). -/
theorem runBus_nibbleOps_trace (n : Nibble) (s : State) :
    (runBus (nibbleOps n) s).trace = .delay .settle :: .pinWrite .e false ::
      ((if s.dly = 0 then [.delay .eHold] else []) ++ .pinWrite .e true :: .dataWrite n :: s.trace) := by
  by_cases h : s.dly = 0 <;> simp [nibbleOps, BusOp.run, h]

/-- From every state, `E` high or a delay running included, the transfer of a nibble is one `NIBBLE` (R130). -/
theorem nibbleDone_runBus (n : Nibble) (s : State) : nibbleDone n s (runBus (nibbleOps n) s) := by
  obtain ⟨-, hsame⟩ := runBus_frame (nibbleOps n) s
  refine ⟨?_, ?_, ?_, rfl, ?_, ?trace, hsame⟩
  case trace =>
    intro hrest
    rw [runBus_nibbleOps_trace, if_pos hrest]
    rfl
  all_goals simp [nibbleOps, BusOp.run]

/-- A byte is the mode-select level and two nibbles, high nibble first (R132). -/
theorem runBus_byteOps (rs : Bool) (v : Byte) (s : State) :
    runBus (byteOps rs v) s = runBus (nibbleOps (lo v)) (runBus (nibbleOps (hi v)) ((s.setRs rs).elapse 1)) := by
  rw [byteOps, runBus_cons, runBus_append]
  rfl

/-- From every state the transfer of a byte is one `BYTE` (R132). -/
theorem byteDone_runBus (rs : Bool) (v : Byte) (s : State) : byteDone rs v s (runBus (byteOps rs v) s) := by
  obtain ⟨-, hsame⟩ := runBus_frame (byteOps rs v) s
  rw [runBus_byteOps] at hsame ⊢
  obtain ⟨-, -, hrs, hdly, hlcd, htrace, -⟩ := nibbleDone_runBus (hi v) ((s.setRs rs).elapse 1)
  obtain ⟨hd', he', hrs', hdly', hlcd', htrace', -⟩ :=
    nibbleDone_runBus (lo v) (runBus (nibbleOps (hi v)) ((s.setRs rs).elapse 1))
  refine ⟨hrs'.trans hrs, he', hd', hdly', ?_, fun hrest => ?_, hsame⟩
  · rw [hlcd', hrs, hlcd]
    rfl
  · rw [htrace' hdly, htrace hrest]
    rfl

/-- Settles O8: each of the two words is the transfer of its nibble (`exec_is_transfer`). -/
theorem initWordsComplete : Obligations.InitWordsComplete := fun s =>
  ⟨⟨_, exec_is_transfer .wake s, nibbleDone_runBus _ s⟩, _, exec_is_transfer .mode4 s, nibbleDone_runBus _ s⟩

/-- Settles O9: each of the six words is the transfer of its code as a command byte (`exec_is_transfer`). -/
theorem commandWordsComplete : Obligations.CommandWordsComplete := fun s =>
  ⟨⟨_, exec_is_transfer .functionSet s, byteDone_runBus false _ s⟩,
    ⟨_, exec_is_transfer .displayOff s, byteDone_runBus false _ s⟩,
    ⟨_, exec_is_transfer .clearDisplay s, byteDone_runBus false _ s⟩,
    ⟨_, exec_is_transfer .entryMode s, byteDone_runBus false _ s⟩,
    ⟨_, exec_is_transfer .displayOn s, byteDone_runBus false _ s⟩,
    _, exec_is_transfer .setLine2 s, byteDone_runBus false _ s⟩

/-- Settles O10: the word is the transfer of its character as a data byte (`exec_is_transfer`). -/
theorem writeCharCompletes : Obligations.WriteCharCompletes := fun c s =>
  ⟨_, exec_is_transfer (.writeChar c) s, byteDone_runBus true c s⟩

/-! ### Encoding: the pulses of a transfer (R66, R91, R92) -/

/-- The transfer of a nibble does not write `RS` (R91). -/
theorem traceRs_nibbleOps (n : Nibble) (s : State) : traceRs (runBus (nibbleOps n) s).trace = traceRs s.trace := by
  rw [runBus_nibbleOps_trace]
  split <;> rfl

/-- The transfer of a nibble makes one pulse, under the level `RS` has (R91). -/
theorem pulses_nibbleOps (n : Nibble) (s : State) :
    pulsesNewestFirst (runBus (nibbleOps n) s).trace = (traceRs s.trace, n) :: pulsesNewestFirst s.trace := by
  rw [runBus_nibbleOps_trace]
  split <;> rfl

/-- The transfer of a byte makes two pulses under its own level, high nibble first (R92). -/
theorem pulses_byteOps (rs : Bool) (v : Byte) (s : State) :
    pulsesNewestFirst (runBus (byteOps rs v) s).trace = (rs, lo v) :: (rs, hi v) :: pulsesNewestFirst s.trace := by
  rw [runBus_byteOps, pulses_nibbleOps, pulses_nibbleOps, traceRs_nibbleOps]
  rfl

/-- The framing of a word makes the pulses of the word (R91, R92, R108). -/
theorem pulses_transmitOps (w : BusWord) (s : State) :
    pulsesNewestFirst (runBus (transmitOps w) s).trace =
      (wordPulses (traceRs s.trace) w).reverse ++ pulsesNewestFirst s.trace := by
  cases w with
  | n5 w => exact pulses_nibbleOps (n5Nibble w) s
  | b9 w => exact pulses_byteOps (b9Rs w) (b9Value w) s

/-- The µop list of an instruction is the framing of its word (R108), by the laws of `WordLength`. -/
theorem wordOps_eq_transmitOps (c : Config) (i : Instr) : wordOps c i = transmitOps (encode c i) := by
  have hword : Laws.WordLength.Statement i := by
    cases i with
    | wake => exact Laws.WordLength.wake
    | mode4 => exact Laws.WordLength.mode4
    | functionSet => exact Laws.WordLength.functionSet
    | displayOff => exact Laws.WordLength.displayOff
    | clearDisplay => exact Laws.WordLength.clearDisplay
    | entryMode => exact Laws.WordLength.entryMode
    | displayOn => exact Laws.WordLength.displayOn
    | setLine2 => exact Laws.WordLength.setLine2
    | writeChar v => exact Laws.WordLength.writeChar v
  obtain ⟨hops, -⟩ := hword c
  exact hops

/-- Executing an instruction is transmitting its word. -/
theorem exec_eq_transmit (i : Instr) (s : State) : exec i s = .next (runBus (transmitOps (encode s.cfg i)) s) := by
  rw [exec_is_transfer, wordOps_eq_transmitOps]

/-- Settles O4: the instruction transmits its word, and a word's framing makes its pulses. -/
theorem pulsesAreTheWord : Obligations.PulsesAreTheWord := fun i s hrs =>
  ⟨_, exec_eq_transmit i s, hrs ▸ pulses_transmitOps (encode s.cfg i) s⟩

/-! ### Encoding: placed words (R108) -/

/-- Settles O23: the placed case of the step, with the decoder's answer. -/
theorem stepRunsPlacedInstruction : Obligations.StepRunsPlacedInstruction := by
  intro s w i hplaced hdecode _
  simp [step, hplaced, hdecode]

/-- A placed word is transmitted: outside the table by the step itself, and in the table because the word of what it
decodes to is the word itself. -/
theorem step_of_placed {s : State} {w : BusWord} (h : s.call = some w) :
    step s = .next (runBus (transmitOps w) { s with call := none }) := by
  cases hdecode : decode s.cfg w with
  | ok i =>
    rw [stepRunsPlacedInstruction s w i h hdecode (instr_wf i), exec_eq_transmit, encodeOfDecode s.cfg w i hdecode]
  | error e => simp [step, h, hdecode]

/-- Settles O12: a placed word is transmitted, and the framing of a word built from its parts is that of the parts. -/
theorem anyWordIsFramed : Obligations.AnyWordIsFramed := by
  refine fun rs s => ⟨fun v hplaced => ⟨_, step_of_placed hplaced, ?_⟩, fun n hplaced => ⟨_, step_of_placed hplaced, ?_⟩⟩
  · rw [transmitOps, b9Rs_b9Word, b9Value_b9Word]
    exact byteDone_runBus rs v _
  · rw [transmitOps, n5Nibble_n5Word]
    exact nibbleDone_runBus n _

/-! ### Encoding: the frame and its digits (R112, R114) -/

/-- Settles O37: the cells of a frame read back as they were laid out, and the layout is the table of R112. -/
theorem frameLayout : Obligations.FrameLayout := fun c r => cells_format c r

/-- The character of a digit is its code (R114). -/
theorem digitChar_toNat {d : Nat} (h : d ≤ 9) : (digitChar d).toNat = 0x30 + d := by
  rw [digitChar, BitVec.toNat_add, BitVec.toNat_ofNat, BitVec.toNat_ofNat]
  omega

/-- Every reading is put together again from its digits (R114). -/
theorem digits_reassemble (v : Reading) : d3 v * 1000 + d2 v * 100 + d1 v * 10 + d0 v = v.toNat := by
  simp only [d3, d2, d1, d0]
  omega

/-- A reading is at most 1023, so its thousands digit is 0 or 1 (R114). -/
theorem d3_le_one (v : Reading) : d3 v ≤ 1 := by
  have := v.isLt
  simp only [d3]
  omega

/-- Settles O38: the definitions, the ranges of `digits_bounded`, and the round trip. -/
theorem digitsRoundTrip : Obligations.DigitsRoundTrip := by
  intro v
  obtain ⟨-, h2, h1, h0⟩ := digits_bounded v
  exact ⟨rfl, rfl, rfl, rfl, d3_le_one v, Nat.le_of_lt_succ h2, Nat.le_of_lt_succ h1, Nat.le_of_lt_succ h0,
    digits_reassemble v, fun _ => digitChar_toNat⟩

end Sys2Proof.Machine

namespace Sys2Proof.Machine

/-! ### Display driver: the transfers (R130, R132, R134) -/

/-- Settles O5: from every state the transfer is one `NIBBLE`; its one pulse carries the level `RS` has. -/
theorem nibbleTransfer : Obligations.NibbleTransfer := fun n s _ _ hrs =>
  ⟨nibbleDone_runBus n s, hrs ▸ pulses_nibbleOps n s⟩

/-- Settles O6: from every state the transfer is one `BYTE`, with its two pulses. -/
theorem byteTransfer : Obligations.ByteTransfer := fun rs v s _ => ⟨byteDone_runBus rs v s, pulses_byteOps rs v s⟩

/-- A data byte is a `BYTE` with mode-select high, then the entry-mode command (R134). -/
theorem runBus_dataOps (c : Config) (v : Byte) (s : State) :
    runBus (dataOps c v) s = runBus (byteOps false c.entryModeCode) (runBus (byteOps true v) s) :=
  runBus_append (byteOps true v) (cmdOps c.entryModeCode) s

/-- Settles O7: the state between the two transfers is the one the data byte leaves. -/
theorem dataTransfer : Obligations.DataTransfer := by
  intro b s _
  refine ⟨runBus (byteOps true b) s, byteDone_runBus true b s, ?_, ?_⟩ <;> rw [runBus_dataOps]
  · exact byteDone_runBus false _ _
  · rw [pulses_byteOps, pulses_byteOps]

/-! ### Display driver: the text of a frame (R139 to R141) -/

/-- The text of a buffer ends before the first `TERM` (R140). -/
theorem frameText_of_first_term {c : Config} {f : Memory} {n : Nat} (hn : n < frameCap)
    (hterm : Memory.read frameBlank f n = c.term) (hfirst : ∀ i, i < n → Memory.read frameBlank f i ≠ c.term) :
    frameText c f = some ((List.range n).map (Memory.read frameBlank f)) := by
  obtain ⟨k, hk⟩ : ∃ k, frameCap = n + (k + 1) := ⟨frameCap - n - 1, by omega⟩
  have hcells : (List.range frameCap).map (Memory.read frameBlank f) =
      (List.range n).map (Memory.read frameBlank f) ++
        c.term :: (List.range k).map fun i => Memory.read frameBlank f (n + (i + 1)) := by
    simp [hk, List.range_add, List.range_succ_eq_map, hterm, Function.comp_def]
  have hplain : ∀ a ∈ (List.range n).map (Memory.read frameBlank f), (a != c.term) = true := by
    simpa using hfirst
  simp only [frameText, hcells]
  rw [if_pos (by simp), List.takeWhile_append_of_pos hplain, List.takeWhile_cons_of_neg (by simp), List.append_nil]

/-- A buffer without `TERM` has no text (R140 (b)). -/
theorem frameText_of_no_term {c : Config} {f : Memory} (h : ∀ n, n < frameCap → Memory.read frameBlank f n ≠ c.term) :
    frameText c f = none := by
  refine if_neg fun hmem => ?_
  obtain ⟨n, hn, hread⟩ := List.mem_map.1 hmem
  exact h n (List.mem_range.1 hn) hread

/-- Settles O39: the text is the cells before the first `TERM`, and each is dispatched by `charOps` (R139). -/
theorem textDispatchesCharacters : Obligations.TextDispatchesCharacters := by
  intro c f n hn hterm hfirst
  rw [phaseOps, frameText_of_first_term hn hterm hfirst, Option.map_some, textOps, textBusOps, List.flatMap_map,
    List.length_map, List.length_range]
  rfl

/-- A tick at which the phase has no list is refused (R140 (b), log 14). -/
theorem step_of_no_ops {s : State} (hcall : s.call = none) (hrst : s.present.rst = false) (hops : s.ops = none) :
    step s = .refused .unterminatedText := by
  simp [step, hcall, tick, hrst, hops]

/-- Settles O40: such a frame has no text, so `TEXT` has no list. -/
theorem unterminatedTextRefused : Obligations.UnterminatedTextRefused := by
  intro s hcall hrst hphase hnone
  exact step_of_no_ops hcall hrst (by rw [State.ops, hphase, phaseOps, frameText_of_no_term hnone, Option.map_none])

/-! ### Display driver: sizes and ticks (R130, R132, R134, R141, R280) -/

/-- A nibble takes `NIB` ticks (R280). -/
theorem busTicks_nibbleOps (c : Config) (n : Nibble) : busTicks c (nibbleOps n) = nibbleTicks c := by
  simp only [nibbleOps, busTicks_cons, busTicks_nil, BusOp.ticks, delayTicks, nibbleTicks]
  omega

/-- A byte takes `BYT` ticks (R280). -/
theorem busTicks_byteOps (c : Config) (rs : Bool) (v : Byte) : busTicks c (byteOps rs v) = byteTicks c := by
  rw [byteOps, busTicks_cons, busTicks_append, busTicks_nibbleOps, busTicks_nibbleOps, BusOp.ticks, byteTicks]
  omega

/-- The framing of a word takes the ticks of its format (R280). -/
theorem busTicks_transmitOps (c : Config) (w : BusWord) : busTicks c (transmitOps w) = wordTicks c w := by
  cases w with
  | n5 w => exact busTicks_nibbleOps c _
  | b9 w => exact busTicks_byteOps c _ _

/-- A data byte takes two `BYTE`s (R134, R280). -/
theorem busTicks_dataOps (c : Config) (v : Byte) : busTicks c (dataOps c v) = 2 * byteTicks c := by
  rw [dataOps, cmdOps, busTicks_append, busTicks_byteOps, busTicks_byteOps]
  omega

/-- A text without the marker is data throughout: 22 µops and two `BYTE`s a character (R139, R141). -/
theorem textBusOps_size {c : Config} {l : List Byte} (h : c.lineBreak ∉ l) :
    (textBusOps c l).length = 22 * l.length ∧ busTicks c (textBusOps c l) = l.length * (2 * byteTicks c) := by
  induction l with
  | nil => exact ⟨rfl, (Nat.zero_mul _).symm⟩
  | cons a l ih =>
    obtain ⟨hne, hl⟩ := List.ne_and_not_mem_of_not_mem_cons h
    obtain ⟨hlen, hticks⟩ := ih hl
    have hdata : textBusOps c (a :: l) = dataOps c a ++ textBusOps c l := by
      rw [textBusOps, List.flatMap_cons, charOps, if_neg (Ne.symm hne), textBusOps]
    rw [hdata, List.length_append, busTicks_append, hlen, hticks, busTicks_dataOps, List.length_cons]
    refine ⟨?_, by ring⟩
    rw [show (dataOps c a).length = 22 from rfl]
    omega

/-- A text with one marker has that one `BYTE` without an entry-mode command (R139, R141). -/
theorem textBusOps_size_of_marker {c : Config} {k l : List Byte} (hk : c.lineBreak ∉ k) (hl : c.lineBreak ∉ l) :
    (textBusOps c (k ++ c.lineBreak :: l)).length = 22 * (k.length + l.length) + 11 ∧
      busTicks c (textBusOps c (k ++ c.lineBreak :: l)) = (2 * (k.length + l.length) + 1) * byteTicks c := by
  obtain ⟨hklen, hkticks⟩ := textBusOps_size hk
  obtain ⟨hllen, hlticks⟩ := textBusOps_size hl
  have hparts : textBusOps c (k ++ c.lineBreak :: l) =
      textBusOps c k ++ (byteOps false c.line2Code ++ textBusOps c l) := by
    rw [textBusOps, List.flatMap_append, List.flatMap_cons, charOps, if_pos rfl, cmdOps, textBusOps, textBusOps]
  rw [hparts, List.length_append, List.length_append, busTicks_append, busTicks_append, hklen, hllen, hkticks, hlticks,
    busTicks_byteOps]
  refine ⟨?_, by ring⟩
  rw [show (byteOps false c.line2Code).length = 11 from rfl]
  omega

/-- The text of a frame of the block is 7 characters, the marker, and 10 characters, no other marker among them
(R112, R141). -/
theorem formatCells_eq_marked {c : Config} (hc : c.wf) (r : Readings) :
    ∃ k l, (formatCells c r).take 18 = k ++ c.lineBreak :: l ∧ k.length = 7 ∧ l.length = 10 ∧
      c.lineBreak ∉ k ∧ c.lineBreak ∉ l := by
  obtain ⟨-, hk, hl⟩ := format_chars hc r
  exact ⟨_, _, rfl, rfl, rfl, hk, hl⟩

/-- The µops of the text of a frame of the block: 385 before `TextEnd`, of 35 `BYTE`s (R141, R280). -/
theorem textBusOps_size_format {c : Config} (hc : c.wf) (r : Readings) :
    (textBusOps c ((formatCells c r).take 18)).length = 385 ∧
      busTicks c (textBusOps c ((formatCells c r).take 18)) = 35 * byteTicks c := by
  obtain ⟨k, l, htext, hk, hl, hkplain, hlplain⟩ := formatCells_eq_marked hc r
  obtain ⟨hlen, hticks⟩ := textBusOps_size_of_marker hkplain hlplain
  rw [htext, hlen, hticks, hk, hl]
  exact ⟨rfl, rfl⟩

/-- An entry that occurs once stands at its one index. -/
theorem getElem?_eq_some_iff_of_once {α : Type} {a : α} {k l : List α} (hk : a ∉ k) (hl : a ∉ l) (i : Nat) :
    (k ++ a :: l)[i]? = some a ↔ i = k.length := by
  constructor
  · intro h
    rcases Nat.lt_trichotomy i k.length with hlt | heq | hgt
    · rw [List.getElem?_append_left hlt] at h
      exact absurd (List.mem_of_getElem? h) hk
    · exact heq
    · rw [List.getElem?_append_right hgt.le, List.getElem?_cons, if_neg (Nat.sub_ne_zero_of_lt hgt)] at h
      exact absurd (List.mem_of_getElem? h) hl
  · rintro rfl
    simp

/-- The list of `TEXT` is that of the transfers and `TextEnd` (R140). -/
theorem textOps_length (c : Config) (text : List Byte) :
    (textOps c text).length = (textBusOps c text).length + 1 := by
  simp [textOps]

/-- The list of `REFRESH` is one `BYTE` longer than that of `TEXT` (R182). -/
theorem refreshOps_length (c : Config) (text : List Byte) :
    (refreshOps c text).length = 11 + (textOps c text).length := by
  rw [refreshOps, List.length_append]
  rfl

/-- Beside `REFRESH` an iteration has 12 µops for the axes, 2 for the buttons, `Decide`, `Update` and the delay (R185). -/
theorem iterationOps_length (c : Config) (text : List Byte) :
    (iterationOps c (some text)).length = (refreshOps c text).length + 17 := by
  simp only [iterationOps, sampleAxisOps, sampleButtonsOps, throttleOps, List.length_append, List.length_cons,
    List.length_nil]
  omega

/-- Settles O41: the list before `TextEnd` is counted by `textBusOps_size_format`, the lists around it are fixed. -/
theorem blockTextSize : Obligations.BlockTextSize := by
  intro c r hc
  obtain ⟨k, l, htext, hk, -, hkplain, hlplain⟩ := formatCells_eq_marked hc r
  obtain ⟨hbus, hticks⟩ := textBusOps_size_format hc r
  have hsize : (textOps c ((formatCells c r).take 18)).length = 386 := by rw [textOps_length, hbus]
  have hrefresh : (refreshOps c ((formatCells c r).take 18)).length = 397 := by rw [refreshOps_length, hsize]
  refine ⟨_, frameText_format hc r, rfl, rfl, fun i _ => ?_, hsize, hrefresh, by rw [iterationOps_length, hrefresh],
    by rw [hticks]⟩
  rw [htext, getElem?_eq_some_iff_of_once hkplain hlplain, hk]

/-- Settles O42: after the 385 µops of the transfers stands `TextEnd(18)`, the last of the list. -/
theorem textEndStoresCount : Obligations.TextEndStoresCount := by
  intro s hcall hrst hc hframe hpc
  obtain ⟨hbus, -⟩ := textBusOps_size_format hc s.snap
  have hops : s.ops = some (textOps s.cfg ((formatCells s.cfg s.snap).take 18)) := by
    rw [State.ops, hpc, hframe, phaseOps, frameText_format hc, Option.map_some]
  have hop : (textOps s.cfg ((formatCells s.cfg s.snap).take 18))[s.pc.u]? = some (.textEnd 18) := by
    rw [hpc, textOps, List.getElem?_append_right (by rw [List.length_map, hbus]), List.length_map, hbus]
    rfl
  rw [step_eq hcall hrst hops hop, MicroOp.tick_of_not_holds rfl, textOps_length, hbus, hpc]
  rfl

/-! ### Display driver: the words of `INIT` (R135, R136) -/

/-- A word sent with mode-select low, as every word but data is (R91, R92). -/
inductive RsLow : BusWord → Prop
  | nibble (n : Nibble) : RsLow (.n5 (n5Word false n))
  | command (v : Byte) : RsLow (.b9 (b9Word false v))

/-- The word of each command of `INIT` is a command byte (R98 to R102, R135). -/
theorem encode_of_mem_initCommands {c : Config} {i : Instr} (h : i ∈ initCommands c) :
    ∃ v, .b9 (b9Word false v) = encode c i := by
  have hfive := (initCommands_sublist c).subset h
  simp only [List.mem_cons, List.not_mem_nil, or_false] at hfive
  rcases hfive with rfl | rfl | rfl | rfl | rfl <;> exact ⟨_, rfl⟩

/-- The words of `INIT`: four nibbles, then `N_INIT_CMDS` command bytes (R135). -/
theorem encode_initWords {c : Config} (h : c.initCountFits) :
    ∃ vs : List Byte, vs.length = c.nInitCmds ∧ (initWords c).map (encode c) =
      [encode c .wake, encode c .wake, encode c .wake, encode c .mode4] ++ vs.map fun v => .b9 (b9Word false v) := by
  have hrange : (initCommands c).map (encode c) ∈ Set.range (List.map fun v : Byte => BusWord.b9 (b9Word false v)) := by
    rw [Set.range_list_map]
    intro w hw
    obtain ⟨i, hi, rfl⟩ := List.mem_map.1 hw
    exact encode_of_mem_initCommands hi
  obtain ⟨vs, hvs⟩ := hrange
  refine ⟨vs, ?_, ?_⟩
  · rw [← initCommands_length h, ← List.length_map (encode c), ← hvs, List.length_map]
  · rw [initWords, List.map_append, ← hvs]
    rfl

/-- Every word of `INIT` is sent with mode-select low. -/
theorem rsLow_of_mem_initWords {c : Config} {w : BusWord} (h : w ∈ (initWords c).map (encode c)) : RsLow w := by
  obtain ⟨i, hi, rfl⟩ := List.mem_map.1 h
  rcases List.mem_append.1 hi with hnibble | hcommand
  · simp only [List.mem_cons, List.not_mem_nil, or_false] at hnibble
    rcases hnibble with rfl | rfl | rfl | rfl <;> exact .nibble _
  · obtain ⟨v, hv⟩ := encode_of_mem_initCommands hcommand
    exact hv ▸ .command v

/-- The steps of `INIT` for a list of words: each transfer and the delay after it (R136). -/
def initSteps (ws : List BusWord) : List BusOp := ws.flatMap fun w => initStep (transmitOps w)

/-- `INIT` is `SetRS(0)` and the steps of its words. -/
theorem initOps_eq (c : Config) : initOps c = .setRs false :: initSteps ((initWords c).map (encode c)) := by
  rw [initOps, initSteps, List.flatMap_map]
  simp only [wordOps_eq_transmitOps]

theorem initSteps_cons (w : BusWord) (ws : List BusWord) :
    initSteps (w :: ws) = initStep (transmitOps w) ++ initSteps ws := List.flatMap_cons

/-- The ticks of a step of `INIT` are those of the word and the delay. -/
theorem busTicks_initSteps (c : Config) (ws : List BusWord) :
    busTicks c (initSteps ws) = (ws.map fun w => wordTicks c w + c.tInit).sum := by
  induction ws with
  | nil => rfl
  | cons w ws ih =>
    rw [initSteps_cons, initStep, busTicks_append, busTicks_append, ih, busTicks_transmitOps, List.map_cons,
      List.sum_cons]
    rfl

/-- `INIT` takes its ticks, whatever the count of commands (R280, C1). -/
theorem busTicks_initOps {c : Config} (h : c.initCountFits) : busTicks c (initOps c) = initTicks c := by
  obtain ⟨vs, hlen, hwords⟩ := encode_initWords h
  rw [initOps_eq, busTicks_cons, busTicks_initSteps, hwords]
  simp only [encode, List.map_append, List.map_cons, List.map_nil, List.map_map, Function.comp_def, wordTicks,
    List.map_const', List.sum_append, List.sum_cons, List.sum_nil, List.sum_replicate, smul_eq_mul, hlen, BusOp.ticks,
    initTicks]
  omega

/-! ### Display driver: what `INIT` does on the lines and in the trace (R136, R137) -/

/-- A transfer µop that begins with the counter at rest makes its event (R31). -/
theorem BusOp.run_trace (op : BusOp) {s : State} (h : s.dly = 0) : (op.run s).trace = op.event :: s.trace := by
  cases op with
  | delay d => rw [BusOp.run, delayAll_of_rest h]; rfl
  | setRs | setD | setE => rfl

/-- So a transfer makes the events of its µops in order (R14). -/
theorem runBus_trace (l : List BusOp) {s : State} (h : s.dly = 0) :
    (runBus l s).trace = (l.map BusOp.event).reverse ++ s.trace := by
  induction l generalizing s with
  | nil => rfl
  | cons op l ih => simp [ih (op.run_dly h), op.run_trace h]

/-- Between two words of `INIT`: mode-select low and last written low, `E` low, no delay running. -/
def BetweenWords (s : State) : Prop := s.lcdRs = false ∧ traceRs s.trace = false ∧ s.lcdE = false ∧ s.dly = 0

/-- The transfer of a byte leaves the byte's level as the last one written to `RS`. -/
theorem traceRs_byteOps (rs : Bool) (v : Byte) (s : State) : traceRs (runBus (byteOps rs v) s).trace = rs := by
  rw [runBus_byteOps, traceRs_nibbleOps, traceRs_nibbleOps]
  rfl

/-- The transfer of a word with mode-select low ends between two words. -/
theorem BetweenWords.transmit {s : State} {w : BusWord} (hw : RsLow w) (h : BetweenWords s) :
    BetweenWords (runBus (transmitOps w) s) := by
  obtain ⟨hrs, htrace, -, -⟩ := h
  cases hw with
  | nibble n =>
    obtain ⟨-, he, hrs', hdly, -⟩ := nibbleDone_runBus (n5Nibble (n5Word false n)) s
    exact ⟨hrs'.trans hrs, (traceRs_nibbleOps _ s).trans htrace, he, hdly⟩
  | command v =>
    have hbyte : transmitOps (.b9 (b9Word false v)) = byteOps false v := by
      rw [transmitOps, b9Rs_b9Word, b9Value_b9Word]
    obtain ⟨hrs', he, -, hdly, -⟩ := byteDone_runBus false v s
    rw [hbyte]
    exact ⟨hrs', traceRs_byteOps false v s, he, hdly⟩

/-- The delay after a word leaves the lines and makes no pulse. -/
theorem BetweenWords.delay {s : State} (h : BetweenWords s) :
    BetweenWords (s.delayAll .init) ∧ pulsesNewestFirst (s.delayAll .init).trace = pulsesNewestFirst s.trace := by
  obtain ⟨hrs, htrace, he, hdly⟩ := h
  rw [delayAll_of_rest hdly]
  exact ⟨⟨hrs, htrace, he, hdly⟩, rfl⟩

/-- The steps of `INIT` make the pulses of their words under `RS` low, in order, and end between two words (R136). -/
theorem BetweenWords.runBus_initSteps {s : State} {ws : List BusWord} (hws : ∀ w ∈ ws, RsLow w) (h : BetweenWords s) :
    BetweenWords (runBus (initSteps ws) s) ∧
      pulsesNewestFirst (runBus (initSteps ws) s).trace =
        (ws.flatMap (wordPulses false)).reverse ++ pulsesNewestFirst s.trace := by
  induction ws generalizing s with
  | nil => exact ⟨h, rfl⟩
  | cons w ws ih =>
    obtain ⟨hw, hws'⟩ := List.forall_mem_cons.1 hws
    obtain ⟨hstep, hpulses⟩ := (h.transmit hw).delay
    obtain ⟨hend, hrest⟩ := ih hws' hstep
    have hrun : runBus (initSteps (w :: ws)) s =
        runBus (initSteps ws) ((runBus (transmitOps w) s).delayAll .init) := by
      rw [initSteps_cons, initStep, runBus_append, runBus_append]
      rfl
    obtain ⟨-, htrace, -⟩ := h
    rw [hrun, hrest, hpulses, pulses_transmitOps, htrace, List.flatMap_cons, List.reverse_append, List.append_assoc]
    exact ⟨hend, rfl⟩

/-! ### Display driver: the pulses of `INIT`, read as words (R94, R136) -/

/-- The pulses of command bytes, taken two at a time, are those bytes again (R94). -/
theorem pairTransfers_commands (vs : List Byte) :
    pairTransfers ((vs.map fun v => BusWord.b9 (b9Word false v)).flatMap (wordPulses false)) =
      vs.map fun v => .b9 (b9Word false v) := by
  induction vs with
  | nil => rfl
  | cons v vs ih =>
    rw [List.map_cons, List.flatMap_cons, wordPulses, b9Rs_b9Word, b9Value_b9Word, List.cons_append, List.cons_append,
      List.nil_append, pairTransfers, ih, join_hi_lo]

/-- Command bytes make two pulses each. -/
theorem pulses_commands_length (vs : List Byte) :
    ((vs.map fun v => BusWord.b9 (b9Word false v)).flatMap (wordPulses false)).length = 2 * vs.length := by
  induction vs with
  | nil => rfl
  | cons v vs ih =>
    rw [List.map_cons, List.flatMap_cons, List.length_append, ih, List.length_cons, Nat.mul_add, Nat.add_comm]
    rfl

/-- `INIT` makes 4 pulses and 2 for each command, and they are the words it is made of (R94, R136). -/
theorem initPulses_words {c : Config} (h : c.initCountFits) :
    (initPulses c).length = 4 + 2 * c.nInitCmds ∧ transfers (initPulses c) = (initWords c).map (encode c) := by
  obtain ⟨vs, hlen, hwords⟩ := encode_initWords h
  have hpulses : initPulses c = (false, c.wakeNibble) :: (false, c.wakeNibble) :: (false, c.wakeNibble) ::
      (false, c.mode4Nibble) :: (vs.map fun v => BusWord.b9 (b9Word false v)).flatMap (wordPulses false) := by
    rw [initPulses, ← List.flatMap_map (encode c), hwords]
    simp [encode, wordPulses]
  rw [hpulses]
  constructor
  · simp only [List.length_cons, pulses_commands_length, hlen]
    omega
  · simp [transfers, pairTransfers_commands, hwords, encode]

/-! ### Display driver: the run of `INIT` (R136, R137, R263) -/

/-- With five commands the words of `INIT` are the nine of R135. -/
theorem initWords_five {c : Config} (h : c.nInitCmds = 5) :
    initWords c = [.wake, .wake, .wake, .mode4, .functionSet, .displayOff, .clearDisplay, .entryMode, .displayOn] := by
  rw [initWords, initCommands_five h]
  rfl

/-- With five commands the last byte of `INIT` is the display-on command, whose low nibble stays on the data lines. -/
theorem runBus_initOps_lcdD {c : Config} (h : c.nInitCmds = 5) (s : State) :
    (runBus (initOps c) s).lcdD = lo c.displayOnCode := by
  obtain ⟨front, hlast⟩ : ∃ front, initOps c = front ++ (byteOps false c.displayOnCode ++ [.delay .init]) := by
    refine ⟨.setRs false :: [.wake, .wake, .wake, .mode4, .functionSet, .displayOff, .clearDisplay,
      .entryMode].flatMap fun i => initStep (wordOps c i), ?_⟩
    rw [initOps, initWords_five h]
    rfl
  obtain ⟨-, -, hd, -⟩ := byteDone_runBus false c.displayOnCode (runBus front s)
  rw [hlast, runBus_append, runBus_append]
  exact (State.delayAll_lcdD _ .init).trans hd

/-- Out of reset with `rst` low the ticks of `INIT` are its transfer, after which control is at `(SAMPLE_X, 0)`. -/
theorem run_init {s : State} (h : outOfReset s) (hpos : s.cfg.delaysPositive) (hfits : s.cfg.initCountFits)
    (hlow : s.rstLow (initTicks s.cfg)) :
    run (initTicks s.cfg) s = .next ((runBus (initOps s.cfg) s).goto { phase := .sampleX, u := 0 }) := by
  obtain ⟨-, -, -, hdly, hpc, -, hcall⟩ := h
  have hops : s.ops = some ((initOps s.cfg).map .bus) := by rw [State.ops, hpc, phaseOps]
  have hdrop : ((initOps s.cfg).map MicroOp.bus).drop s.pc.u = (initOps s.cfg).map .bus ++ [] := by
    rw [hpc, List.drop_zero, List.append_nil]
  rw [← busTicks_initOps hfits] at hlow ⊢
  have hne : initOps s.cfg ≠ [] := List.cons_ne_nil _ _
  rw [run_transfer hne hpos rfl rfl hcall hdly hops hdrop hlow, pcAfter, List.length_map, if_neg (by omega), hpc,
    nextPhase]

/-- Out of reset the transfer of `INIT` makes the pulses of its words and ends between words (R136). -/
theorem runBus_initOps {s : State} (h : outOfReset s) :
    BetweenWords (runBus (initOps s.cfg) s) ∧ (runBus (initOps s.cfg) s).pulses = initPulses s.cfg := by
  obtain ⟨-, he, -, hdly, -, htrace, -⟩ := h
  have hstart : BetweenWords ((s.setRs false).elapse 1) := ⟨rfl, rfl, he, hdly⟩
  obtain ⟨hend, hpulses⟩ := hstart.runBus_initSteps fun w => rsLow_of_mem_initWords (c := s.cfg)
  rw [initOps_eq, runBus_cons, BusOp.run]
  refine ⟨hend, ?_⟩
  rw [State.pulses, hpulses, State.elapse_trace, State.setRs_trace, htrace, initPulses, List.flatMap_map]
  simp [pulsesNewestFirst]

/-- Settles O44: the run is the transfer of `INIT`, which makes the events of its µops and the pulses of its words. -/
theorem initRunsToReady : Obligations.InitRunsToReady := by
  intro s hout hpos hfits hlow
  have hrun := run_init hout hpos hfits hlow
  obtain ⟨⟨hrs, -, he, hdly⟩, hpulses⟩ := runBus_initOps hout
  obtain ⟨-, -, -, hrest, -, htrace, -⟩ := hout
  have hevents : (runBus (initOps s.cfg) s).trace.reverse = (initOps s.cfg).map BusOp.event := by
    rw [runBus_trace _ hrest, htrace, List.append_nil, List.reverse_reverse]
  obtain ⟨hlen, htransfers⟩ := initPulses_words hfits
  rw [← hpulses] at hlen htransfers
  have hd := fun hfive => runBus_initOps_lcdD (c := s.cfg) hfive s
  obtain ⟨hframe, hcfg, hch, hcur, hsnap, -, htcount, -⟩ := runBus_frame (initOps s.cfg) s
  generalize runBus (initOps s.cfg) s = t at *
  exact ⟨_, hrun, rfl, rfl, hrs, he, hdly, hevents, hpulses, hlen, htransfers,
    fun hfive => ⟨hd hfive, htransfers.trans (by rw [initWords_five hfive])⟩, hch, hcur, hsnap, hframe, htcount, hcfg⟩

/-! ### Display driver: the block ignores the display (R5, R144) -/

/-- Another display attached, nothing else changed. -/
def State.withLcd (l : Lcd) (s : State) : State := { s with lcd := l }

section
variable (l : Lcd) (s : State)

theorem State.delayEvent_withLcd (d : DelayName) : (s.withLcd l).delayEvent d = (s.delayEvent d).withLcd l :=
  (apply_ite (State.withLcd l) (s.dly = 0) (s.emit (.delay d)) s).symm

/-- One tick of a transfer µop makes the same of every register, whatever display is attached. -/
theorem BusOp.perform_withLcd (op : BusOp) : ∃ l', op.perform (s.withLcd l) = (op.perform s).withLcd l' := by
  cases op with
  | delay d => exact ⟨l, congrArg (fun t : State => { t with dly := s.delayNext d }) (s.delayEvent_withLcd l d)⟩
  | setRs | setD | setE => exact ⟨_, rfl⟩

/-- So do all its ticks. -/
theorem BusOp.run_withLcd (op : BusOp) : ∃ l', op.run (s.withLcd l) = (op.run s).withLcd l' := by
  cases op with
  | delay d =>
    exact ⟨l, congrArg (fun t : State => State.elapse (s.delayLeft d) { t with dly := 0 }) (s.delayEvent_withLcd l d)⟩
  | setRs | setD | setE => exact ⟨_, rfl⟩

/-- So does a transfer. -/
theorem runBus_withLcd (ops : List BusOp) : ∃ l', runBus ops (s.withLcd l) = (runBus ops s).withLcd l' := by
  induction ops generalizing s l with
  | nil => exact ⟨l, rfl⟩
  | cons op ops ih =>
    obtain ⟨l', hop⟩ := op.run_withLcd l s
    rw [runBus_cons, runBus_cons, hop]
    exact ih l' (op.run s)

/-- So does one tick of any µop. -/
theorem MicroOp.perform_withLcd (op : MicroOp) (inp : Inputs) :
    ∃ l', op.perform inp (s.withLcd l) = (op.perform inp s).withLcd l' := by
  cases op with
  | bus b => exact b.perform_withLcd l s
  | adcSel | adcSample | adcConvert | adcPoll | adcRead | readBtn | decide | update | textEnd => exact ⟨l, rfl⟩

/-- So does that tick with the move of `pc`. -/
theorem MicroOp.tick_withLcd (op : MicroOp) (len : Nat) (inp : Inputs) :
    ∃ l', op.tick len inp (s.withLcd l) = (op.tick len inp s).withLcd l' := by
  obtain ⟨l', h⟩ := op.perform_withLcd l s inp
  exact ⟨l', congrArg (State.goto (if op.holds inp s then s.pc else pcAfter len 1 (changed s.cur s.snap) s.pc)) h⟩

end

/-- Settles O57: a placed word, a reset and the tick of a µop each make the same of the block over every display. -/
theorem blockIgnoresTheDisplay : Obligations.BlockIgnoresTheDisplay := by
  intro s t l h
  change ∃ l', step (s.withLcd l) = .next (t.withLcd l')
  cases hcall : s.call with
  | some w =>
    rw [step_of_placed hcall] at h
    cases h
    rw [step_of_placed (s := s.withLcd l) hcall]
    obtain ⟨l', hl⟩ := runBus_withLcd l { s with call := none } (transmitOps w)
    exact ⟨l', congrArg _ hl⟩
  | none =>
    rcases step_cases h with ⟨w, -, hplaced, -⟩ | ⟨-, hrst, rfl⟩ | ⟨-, hrst, ops, op, hops, hop, rfl⟩
    · simp [hcall] at hplaced
    · exact ⟨l.atReset s.lcdE, step_of_rst (s := s.withLcd l) hcall hrst⟩
    · rw [step_eq (s := s.withLcd l) hcall hrst hops hop]
      obtain ⟨l', hl⟩ := op.tick_withLcd l s ops.length s.present
      exact ⟨l', congrArg (fun u : State => Host.Outcome.next (u.elapse 1)) hl⟩

end Sys2Proof.Machine

namespace Sys2Proof.Machine

/-! ### Input sampler: a µop's tick in the course of a run (R30, R33) -/

/-- A µop's writes and event do not look at the time. -/
theorem MicroOp.perform_elapse (op : MicroOp) (inp : Inputs) (n : Nat) (s : State) :
    op.perform inp (s.elapse n) = (op.perform inp s).elapse n := by
  cases op with
  | bus b =>
    cases b with
    | delay d =>
      exact congrArg (fun t : State => { t with dly := s.delayNext d })
        (apply_ite (State.elapse n) (s.dly = 0) (s.emit (.delay d)) s).symm
    | setRs | setD | setE => rfl
  | adcSel | adcSample | adcConvert | adcPoll | adcRead | readBtn | decide | update | textEnd => rfl

/-- Nor does its tick. -/
theorem MicroOp.tick_elapse (op : MicroOp) (len : Nat) (inp : Inputs) (n : Nat) (s : State) :
    op.tick len inp (s.elapse n) = (op.tick len inp s).elapse n :=
  congrArg (State.goto (if op.holds inp s then s.pc else pcAfter len 1 (changed s.cur s.snap) s.pc))
    (op.perform_elapse inp n s)

/-- The run that every other run extends. -/
theorem run_zero_elapse (s : State) : run 0 s = .next (s.elapse 0) := by rw [run_zero, State.elapse_zero]

/-- A run of `n` ticks and the µop it has come to, in terms of the state reached without its `n` ticks. -/
theorem run_then_tick {n : Nat} {s t : State} {ops : List MicroOp} {op : MicroOp} (h : run n s = .next (t.elapse n))
    (hcall : t.call = none) (hrst : (t.inputAt n).rst = false) (hops : t.ops = some ops)
    (hop : ops[t.pc.u]? = some op) :
    run (n + 1) s = .next ((op.tick ops.length (t.inputAt n) t).elapse (n + 1)) := by
  have hpresent : (t.elapse n).present = t.inputAt n := State.inputAt_elapse t n 0
  rw [run_then_step h (step_eq (s := t.elapse n) hcall (hpresent ▸ hrst) hops hop), hpresent, op.tick_elapse,
    State.elapse_elapse]

/-- A run of `n` ticks and the `Delay` it has come to, with all its ticks. -/
theorem run_then_delay {n : Nat} {s t : State} {d : DelayName} {ops : List MicroOp} (h : run n s = .next (t.elapse n))
    (hcall : t.call = none) (hrest : t.dly = 0) (hpos : 1 ≤ delayTicks t.cfg d)
    (hlow : t.rstLow (n + delayTicks t.cfg d)) (hops : t.ops = some ops)
    (hop : ops[t.pc.u]? = some (.bus (.delay d))) :
    run (n + delayTicks t.cfg d) s = .next (((t.emit (.delay d)).goto
      (pcAfter ops.length 1 (changed t.cur t.snap) t.pc)).elapse (n + delayTicks t.cfg d)) := by
  have hdelay := run_delay (s := t.elapse n) hcall hrest hops hop (rstLow_elapse hlow) hpos
  rw [run_add h, ← State.elapse_elapse]
  exact hdelay

/-! ### Input sampler: the poll (R164) -/

/-- A poll stays when it is answered 0. -/
theorem MicroOp.adcPoll_holds {inp : Inputs} {b : Bool} (h : inp.adcDone = b) (s : State) :
    MicroOp.adcPoll.holds inp s = !b := by rw [← h]; rfl

/-- A poll makes the event of its answer. -/
theorem MicroOp.adcPoll_perform {inp : Inputs} {b : Bool} (h : inp.adcDone = b) (s : State) :
    MicroOp.adcPoll.perform inp s = s.emit (.adcDone b) := by rw [← h]; rfl

/-- After `n` polls answered 0: their events, nothing else. -/
def State.polled (n : Nat) (s : State) : State := { s with trace := List.replicate n (.adcDone false) ++ s.trace }

section
variable {s : State} {ops : List MicroOp} (hcall : s.call = none) (hops : s.ops = some ops)
  (hop : ops[s.pc.u]? = some .adcPoll)
include hcall hops hop

/-- A poll that is answered 0 stays where it is, for every number of such answers. -/
theorem run_polls {n : Nat} (hlow : s.rstLow n) (hwait : ∀ k, k < n → (s.inputAt k).adcDone = false) :
    run n s = .next ((s.polled n).elapse n) := by
  induction n with
  | zero => exact run_zero_elapse s
  | succ n ih =>
    have hprev := ih (rstLow_mono hlow n.le_succ) fun k hk => hwait k (hk.trans n.lt_succ_self)
    have hzero : ((s.polled n).inputAt n).adcDone = false := hwait n n.lt_succ_self
    have htick := run_then_tick hprev hcall (hlow n n.lt_succ_self) hops hop
    rw [MicroOp.tick_of_holds (MicroOp.adcPoll_holds hzero _), MicroOp.adcPoll_perform hzero] at htick
    exact htick

/-- The same in the course of a run. -/
theorem run_then_polls {m n : Nat} {s₀ : State} (h : run m s₀ = .next (s.elapse m)) (hlow : s.rstLow (m + n))
    (hwait : ∀ k, k < n → (s.inputAt (m + k)).adcDone = false) :
    run (m + n) s₀ = .next ((s.polled n).elapse (m + n)) := by
  have hwait' (k : Nat) (hk : k < n) : ((s.elapse m).inputAt k).adcDone = false := by
    rw [State.inputAt_elapse]
    exact hwait k hk
  have hpolls := run_polls (s := s.elapse m) hcall hops hop (rstLow_elapse hlow) hwait'
  rw [run_add h, ← State.elapse_elapse]
  exact hpolls

/-- A poll that is answered 1 lets control go on. -/
theorem step_of_poll_done (hrst : s.present.rst = false) (hdone : s.present.adcDone = true) :
    step s = .next (((s.emit (.adcDone true)).goto (pcAfter ops.length 1 (changed s.cur s.snap) s.pc)).elapse 1) := by
  rw [step_eq hcall hrst hops hop, MicroOp.tick_of_not_holds (MicroOp.adcPoll_holds hdone s),
    MicroOp.adcPoll_perform hdone]

end

/-- Settles O29: `run_polls` while the answer is 0, `step_of_poll_done` when it is 1. -/
theorem pollRepeatsUntilDone : Obligations.PollRepeatsUntilDone := fun _ _ _ hcall hops hop =>
  ⟨run_polls hcall hops hop, step_of_poll_done hcall hops hop⟩

/-! ### Input sampler: an axis (R162, R165) -/

/-- The phase that samples an axis. -/
def Axis.phase : Axis → Phase
  | .x => .sampleX
  | .y => .sampleY

theorem phaseOps_axis (r : Axis) (c : Config) (f : Memory) : phaseOps c f r.phase = some (sampleAxisOps c r) := by
  cases r <;> rfl

/-- Inside an axis: its channel chosen, control at its µop `u`, the events so far, everything else as in `s`. -/
def State.inAxis (r : Axis) (u : Nat) (events : List Event) (s : State) : State :=
  { s with adcCh := channel s.cfg r, pc := { phase := r.phase, u := u }, trace := events }

/-- The events up to the start of a conversion, newest first (R162, R163). -/
def conversionEvents (c : Config) (r : Axis) : List Event :=
  [.adcStopSampleStartConvert, .delay .sample, .adcStartSample, .adcSelect (channel c r)]

section
variable {s : State} {r : Axis} (hcall : s.call = none)
include hcall

/-- A µop between the first of an axis and the last makes its event and moves on. -/
theorem run_then_emit {n u : Nat} {events : List Event} {op : MicroOp} (e : Event)
    (h : run n s = .next ((s.inAxis r u events).elapse n)) (hrst : (s.inputAt n).rst = false) (hu : u < 5)
    (hop : (sampleAxisOps s.cfg r)[u]? = some op) (hends : op.holds (s.inputAt n) (s.inAxis r u events) = false)
    (hemit : op.perform (s.inputAt n) (s.inAxis r u events) = (s.inAxis r u events).emit e) :
    run (n + 1) s = .next ((s.inAxis r (u + 1) (e :: events)).elapse (n + 1)) := by
  have htick : run (n + 1) s = .next ((op.tick 6 (s.inputAt n) (s.inAxis r u events)).elapse (n + 1)) :=
    run_then_tick h hcall hrst (phaseOps_axis r s.cfg s.frame) hop
  have hmore : (s.inAxis r u events).pc.u + 1 < 6 := Nat.succ_lt_succ hu
  rw [MicroOp.tick_of_not_holds hends, hemit, pcAfter, if_pos hmore] at htick
  exact htick

variable (hpos : s.cfg.delaysPositive) (hrest : s.dly = 0) (hpc : s.pc = { phase := r.phase, u := 0 })
include hpos hrest hpc

/-- The first four µops of an axis start a conversion. -/
theorem run_startConversion (hlow : s.rstLow (3 + s.cfg.tSample)) :
    run (3 + s.cfg.tSample) s =
      .next ((s.inAxis r 4 (conversionEvents s.cfg r ++ s.trace)).elapse (3 + s.cfg.tSample)) := by
  have hops : s.ops = some (sampleAxisOps s.cfg r) := by rw [State.ops, hpc, phaseOps_axis]
  have hselect : run 1 s = .next ((s.inAxis r 1 (.adcSelect (channel s.cfg r) :: s.trace)).elapse 1) := by
    rw [run_then_tick (run_zero_elapse s) hcall (hlow 0 (by omega)) hops (by rw [hpc]; rfl),
      MicroOp.tick_of_not_holds rfl, hpc]
    rfl
  have hstart := run_then_emit hcall .adcStartSample hselect (hlow 1 (by omega)) (by omega) rfl rfl rfl
  have hhold : run (2 + s.cfg.tSample) s = .next ((s.inAxis r 3 (.delay .sample :: .adcStartSample ::
      .adcSelect (channel s.cfg r) :: s.trace)).elapse (2 + s.cfg.tSample)) :=
    run_then_delay (d := .sample) hstart hcall hrest (delayTicks_pos hpos .sample)
      (rstLow_mono (s := s) hlow (Nat.add_le_add_right (by decide) s.cfg.tSample)) (phaseOps_axis r s.cfg s.frame) rfl
  rw [Nat.add_right_comm 2 1]
  exact run_then_emit hcall .adcStopSampleStartConvert hhold (hlow _ (by omega)) (by omega) rfl rfl rfl

/-- A conversion is polled until it is reported done. -/
theorem run_conversion {k : Nat} (hlow : s.rstLow (s.cfg.tSample + k + 4))
    (hwait : ∀ j, j < k → (s.inputAt (s.cfg.tSample + 3 + j)).adcDone = false)
    (hdone : (s.inputAt (s.cfg.tSample + 3 + k)).adcDone = true) :
    run (s.cfg.tSample + k + 4) s = .next ((s.inAxis r 5 (.adcDone true :: (List.replicate k (.adcDone false) ++
      (conversionEvents s.cfg r ++ s.trace)))).elapse (s.cfg.tSample + k + 4)) := by
  have hstart := run_startConversion hcall hpos hrest hpc (rstLow_mono hlow (by omega))
  rw [Nat.add_comm 3] at hstart
  have hpolls := run_then_polls (s := s.inAxis r 4 _) hcall (phaseOps_axis r s.cfg s.frame) rfl hstart
    (rstLow_mono (s := s) hlow (by omega)) hwait
  rw [Nat.add_right_comm s.cfg.tSample 3] at hpolls hdone
  exact run_then_emit hcall (.adcDone true) hpolls (hlow _ (by omega)) (by omega) rfl
    (MicroOp.adcPoll_holds hdone _) (MicroOp.adcPoll_perform hdone _)

end

/-- Settles O30: after `run_conversion` one tick more reads the result, and the axis's phase ends. -/
theorem sampleAxisReadsTheConverter : Obligations.SampleAxisReadsTheConverter := by
  intro r s k hcall hpos hrest hpc hlow hwait hdone
  replace hpc : s.pc = { phase := r.phase, u := 0 } := by cases r <;> exact hpc
  have hconverted := run_conversion hcall hpos hrest hpc (rstLow_mono hlow (by omega)) hwait hdone
  have hread := run_then_tick hconverted hcall (hlow (s.cfg.tSample + k + 4) (by omega))
    (phaseOps_axis r s.cfg s.frame) (op := .adcRead r) rfl
  cases r <;> exact hread

/-! ### Input sampler: the buttons (R166) -/

/-- Settles O31: the two µops of the list, one tick each. -/
theorem sampleButtonsReadsLevels : Obligations.SampleButtonsReadsLevels := by
  intro s hcall hpc hlow
  have hops : s.ops = some sampleButtonsOps := by rw [State.ops, hpc, phaseOps]
  have hfirst := run_then_tick (run_zero_elapse s) hcall (hlow 0 (by omega)) hops (op := .readBtn .one)
    (by rw [hpc]; rfl)
  rw [MicroOp.tick_of_not_holds rfl, hpc] at hfirst
  exact run_then_tick hfirst hcall (hlow 1 (by omega)) (ops := sampleButtonsOps) rfl (op := .readBtn .two) rfl

end Sys2Proof.Machine

namespace Sys2Proof.Machine

/-! ### Refresh controller: the change detector (R176, R177) -/

/-- Settles O32: the definition of `changed`, read as a proposition. -/
theorem changedComparesBuckets : Obligations.ChangedComparesBuckets := fun c p => by
  simp only [changed, bucket, Bool.or_eq_true, bne_iff_ne, or_assoc]

/-- What the change detector sees of four readings: the bucket of each axis and the buttons (R176). -/
def Readings.seen (r : Readings) : Nat × Nat × Bool × Bool := (bucket r.x, bucket r.y, r.b1, r.b2)

/-- Readings are unchanged when the detector sees the same of both. -/
theorem changed_eq_false_iff {a b : Readings} : changed a b = false ↔ a.seen = b.seen := by
  simp only [changed, Readings.seen, Bool.or_eq_false_iff, bne_eq_false_iff_eq, Prod.mk.injEq, and_assoc]

/-- Settles O33: seeing the same of both is an equality (`changed_eq_false_iff`), so an equivalence. -/
theorem unchangedIsEquivalence : Obligations.UnchangedIsEquivalence where
  refl _ := changed_eq_false_iff.2 rfl
  symm h := changed_eq_false_iff.2 (changed_eq_false_iff.1 h).symm
  trans h h' := changed_eq_false_iff.2 ((changed_eq_false_iff.1 h).trans (changed_eq_false_iff.1 h'))

/-! ### Refresh controller: the phases of one µop (R180, R181, R184) -/

/-- In a phase of one µop, which ends, a tick is that µop, and control goes to the start of the next phase (R30, R32). -/
theorem step_of_singleton {s : State} {p : Phase} {op : MicroOp} (hcall : s.call = none) (hrst : s.present.rst = false)
    (hpc : s.pc = { phase := p, u := 0 }) (hops : phaseOps s.cfg s.frame p = some [op])
    (hends : op.holds s.present s = false) :
    step s = .next (((op.perform s.present s).goto
      { phase := nextPhase (changed s.cur s.snap) p, u := 0 }).elapse 1) := by
  have hlist : s.ops = some [op] := by rw [State.ops, hpc, hops]
  rw [step_eq hcall hrst hlist (by rw [hpc]; rfl), MicroOp.tick_of_not_holds hends, hpc]
  rfl

/-- Settles O34: `Decide` writes nothing, and the phase after it is chosen by `nextPhase`. -/
theorem decideBranchesOnChanged : Obligations.DecideBranchesOnChanged := fun _ hcall hrst hpc =>
  step_of_singleton hcall hrst hpc rfl rfl

/-- A cell of a frame holds its entry of the layout (R112). -/
theorem read_format (c : Config) (r : Readings) {j : Nat} (hj : j < frameCap) :
    some (Memory.read frameBlank (format c r) j) = (formatCells c r)[j]? := by
  rw [← cells_format, List.getElem?_map, List.getElem?_range hj, Option.map_some]

/-- Settles O35: `Update` writes snapshot and frame, whose cells are those of `read_format`. -/
theorem updateWritesSnapshotAndFrame : Obligations.UpdateWritesSnapshotAndFrame := fun s hcall hrst hpc =>
  ⟨_, step_of_singleton hcall hrst hpc rfl rfl, fun _ hj => read_format s.cfg s.cur hj, rfl⟩

/-- Settles O36: `THROTTLE` is one `Delay`, with all its ticks. -/
theorem throttleReturnsToSampling : Obligations.ThrottleReturnsToSampling := by
  intro s hcall hpos hrest hpc hlow
  have hops : s.ops = some throttleOps := by rw [State.ops, hpc, phaseOps]
  have hdelay := run_delay (d := .loop) hcall hrest hops (by rw [hpc]; rfl) hlow hpos
  rw [hpc] at hdelay
  exact hdelay

/-! ### Refresh controller: an iteration up to its branch (R185, R189) -/

/-- What sampling from `s` can come to at the start of phase `p`: another channel, readings and trace. -/
def State.sampled (p : Phase) (ch : Nat) (cur : Readings) (trace : List Event) (s : State) : State :=
  { s with adcCh := ch, cur := cur, pc := { phase := p, u := 0 }, trace := trace }

/-- `n` ticks from `s` sample the readings `cur`, reach the start of phase `p`, and make no pulse. -/
def SamplesTo (s : State) (n : Nat) (p : Phase) (cur : Readings) : Prop :=
  ∃ ch trace, run n s = .next ((s.sampled p ch cur trace).elapse n) ∧
    pulsesNewestFirst trace = pulsesNewestFirst s.trace

/-- The readings with that of an axis replaced. -/
def Readings.setAxis (r : Axis) (v : Reading) (cur : Readings) : Readings :=
  match r with
  | .x => { cur with x := v }
  | .y => { cur with y := v }

/-- Polls answered 0 make no pulse. -/
theorem pulsesNewestFirst_polls (k : Nat) (l : List Event) :
    pulsesNewestFirst (List.replicate k (.adcDone false) ++ l) = pulsesNewestFirst l := by
  induction k with
  | zero => rfl
  | succ k ih => exact ih

/-- Before its first tick an iteration has sampled nothing. -/
theorem samplesTo_zero {s : State} {p : Phase} (hpc : s.pc = { phase := p, u := 0 }) : SamplesTo s 0 p s.cur :=
  ⟨s.adcCh, s.trace, by rw [run_zero_elapse, State.sampled, ← hpc], rfl⟩

section
variable {s : State} {n : Nat} {cur : Readings} (hcall : s.call = none)
include hcall

/-- Sampling goes on with an axis, whose first poll is at tick `a` (R162). -/
theorem SamplesTo.axis {r : Axis} (h : SamplesTo s n r.phase cur) (hpos : s.cfg.delaysPositive) (hrest : s.dly = 0)
    {a k : Nat} (ha : a = n + s.cfg.tSample + 3) (hlow : s.rstLow (a + k + 2))
    (hwait : ∀ j, j < k → (s.inputAt (a + j)).adcDone = false) (hdone : (s.inputAt (a + k)).adcDone = true) :
    SamplesTo s (a + k + 2) (nextPhase false r.phase) (cur.setAxis r (s.inputAt (a + k + 1)).adcResult) := by
  obtain ⟨ch, trace, hrun, hpulses⟩ := h
  let t := s.sampled r.phase ch cur trace
  have hpoll (j : Nat) : (t.elapse n).inputAt (s.cfg.tSample + 3 + j) = s.inputAt (a + j) := by
    rw [State.inputAt_elapse, ha, Nat.add_assoc n, Nat.add_assoc n]
    rfl
  have hresult : (t.elapse n).inputAt (s.cfg.tSample + k + 4) = s.inputAt (a + k + 1) := by
    rw [State.inputAt_elapse, show n + (s.cfg.tSample + k + 4) = a + k + 1 by omega]
    rfl
  have hticks : n + (s.cfg.tSample + k + 5) = a + k + 2 := by omega
  have haxis := sampleAxisReadsTheConverter r (t.elapse n) k hcall hpos hrest (by cases r <;> rfl)
    (rstLow_elapse (s := t) (hticks ▸ hlow)) (fun j hj => (hpoll j).symm ▸ hwait j hj) ((hpoll k).symm ▸ hdone)
  refine ⟨channel s.cfg r, .adcResult (s.inputAt (a + k + 1)).adcResult :: .adcDone true ::
    (List.replicate k (Event.adcDone false) ++ (conversionEvents s.cfg r ++ trace)), ?_,
    (pulsesNewestFirst_polls k (conversionEvents s.cfg r ++ trace)).trans hpulses⟩
  rw [← hticks, run_add hrun, ← State.elapse_elapse, ← hresult]
  cases r <;> exact haxis

/-- Sampling goes on with the buttons (R166). -/
theorem SamplesTo.buttons (h : SamplesTo s n .buttons cur) (hlow : s.rstLow (n + 2)) :
    SamplesTo s (n + 2) .decide { cur with
      b1 := pressed s.cfg (s.inputAt n).btn1, b2 := pressed s.cfg (s.inputAt (n + 1)).btn2 } := by
  obtain ⟨ch, trace, hrun, hpulses⟩ := h
  have hbuttons := sampleButtonsReadsLevels ((s.sampled .buttons ch cur trace).elapse n) hcall rfl
    (rstLow_elapse (s := s.sampled .buttons ch cur trace) hlow)
  rw [State.inputAt_elapse, State.inputAt_elapse] at hbuttons
  refine ⟨ch, .pinRead .two (s.inputAt (n + 1)).btn2 :: .pinRead .one (s.inputAt n).btn1 :: trace, ?_, hpulses⟩
  rw [run_add hrun, ← State.elapse_elapse]
  exact hbuttons

/-- `Decide` ends the sampling, on the readings sampled (R180). -/
theorem SamplesTo.decide (h : SamplesTo s n .decide cur) (hrst : (s.inputAt n).rst = false) :
    SamplesTo s (n + 1) (if changed cur s.snap then .update else .throttle) cur := by
  obtain ⟨ch, trace, hrun, hpulses⟩ := h
  exact ⟨ch, trace, run_then_tick hrun hcall hrst (ops := [.decide]) rfl rfl, hpulses⟩

end

/-- Settles O47: the two axes, the buttons and `Decide` in turn. -/
theorem iterationSamplesThenBranches : Obligations.IterationSamplesThenBranches := by
  intro s kx ky r x0 y0 b0 hcall hpos hrest hpc hlow hxwait hxdone hywait hydone hr
  have hy0 : y0 = x0 + kx + 2 + s.cfg.tSample + 3 := rfl
  have hb0 : b0 = y0 + ky + 2 := rfl
  have hx := SamplesTo.axis (r := .x) hcall (samplesTo_zero hpc) hpos hrest (by rw [Nat.zero_add])
    (rstLow_mono hlow (by omega)) hxwait hxdone
  have hy := SamplesTo.axis (r := .y) hcall hx hpos hrest hy0 (rstLow_mono hlow (by omega)) hywait hydone
  have hbuttons := hy.buttons hcall (rstLow_mono hlow (by omega))
  obtain ⟨ch, trace, hrun, hpulses⟩ := hbuttons.decide hcall (hlow _ (by omega))
  subst hr
  exact ⟨_, hrun, rfl, rfl, rfl, rfl, rfl, hrest, rfl, rfl, rfl, rfl, congrArg List.reverse hpulses⟩

/-! ### Refresh controller: the frame and the snapshot (R183) -/

/-- Snapshot and frame are written together or not at all, so a tick leaves a frame that shows the snapshot. -/
theorem MicroOp.tick_keeps_shown (op : MicroOp) (len : Nat) (inp : Inputs) {s : State}
    (h : s.frame = format s.cfg s.snap) :
    (op.tick len inp s).frame = format (op.tick len inp s).cfg (op.tick len inp s).snap := by
  rw [op.tick_cfg]
  rcases op.perform_snap_frame inp s with ⟨-, hsnap, hframe⟩ | ⟨-, hsnap, hframe⟩
  · exact hframe.trans (congrArg (format s.cfg) hsnap.symm)
  · exact (hframe.trans h).trans (congrArg (format s.cfg) hsnap.symm)

/-- Settles O54: a placed word's transfer writes neither, a reset is shut out, and a tick is `tick_keeps_shown`. -/
theorem frameKeepsShowingSnapshot : Obligations.FrameKeepsShowingSnapshot := by
  intro s t hshown hlow hstep
  rcases step_cases hstep with ⟨_, ops, -, rfl⟩ | ⟨hcall, hhigh, -⟩ | ⟨-, -, ops, op, -, -, rfl⟩
  · obtain ⟨hframe, hcfg, -, -, hsnap, -⟩ := runBus_frame ops { s with call := none }
    rw [hframe, hcfg, hsnap]
    exact hshown
  · simp [hlow hcall] at hhigh
  · exact op.tick_keeps_shown ops.length s.present hshown

/-! ### Refresh controller: where control can go (R28, R188) -/

/-- `INIT` follows no phase (R28, R32). -/
theorem nextPhase_ne_init (chg : Bool) (p : Phase) : nextPhase chg p ≠ .init := by
  cases p with
  | decide => cases chg <;> decide
  | init | sampleX | sampleY | buttons | update | clear | text | throttle => exact nofun

/-- Settles O56: the cases of `tick_pc_cases`; a tick stays in its phase, or enters one that is not `INIT`. -/
theorem controlMovesByThePhaseTable : Obligations.ControlMovesByThePhaseTable := by
  intro s t hcall hrst hstep
  rcases step_cases hstep with ⟨w, -, hplaced, -⟩ | ⟨-, hhigh, -⟩ | ⟨-, -, ops, op, -, hop, rfl⟩
  · simp [hcall] at hplaced
  · simp [hrst] at hhigh
  · simp only [State.drvReady, State.elapse_pc]
    rcases op.tick_pc_cases s.present hop with ⟨-, hpc⟩ | ⟨-, -, hpc⟩ | ⟨-, -, hpc⟩ <;> rw [hpc]
    · exact ⟨.inl rfl, id⟩
    · exact ⟨.inr (.inl rfl), id⟩
    · exact ⟨.inr (.inr rfl), fun _ => bne_iff_ne.2 (nextPhase_ne_init _ _)⟩

end Sys2Proof.Machine

namespace Sys2Proof.Machine

/-! ### Reference display: the commands, row by row (R105, R208 to R213) -/

/-- A command of the entry-mode row: its bits 7:2 are those of the row (R105). -/
theorem Lcd.command_of_entryModeRow {v : Byte} (h : v.extractLsb' 2 6 = 0b000001#6) (l : Lcd) :
    l.command v = l.entryMode v := by
  have hbits : v[7] = false ∧ v[6] = false ∧ v[5] = false ∧ v[4] = false ∧ v[3] = false ∧ v[2] = true := by
    revert v; decide
  obtain ⟨h7, h6, h5, h4, h3, h2⟩ := hbits
  simp [Lcd.command, h7, h6, h5, h4, h3, h2]

/-- A command of the function-set row: its bits 7:5 are those of the row (R105). -/
theorem Lcd.command_of_functionSetRow {v : Byte} (h : v.extractLsb' 5 3 = 0b001#3) (l : Lcd) :
    l.command v = l.functionSet v := by
  have hbits : v[7] = false ∧ v[6] = false ∧ v[5] = true := by revert v; decide
  obtain ⟨h7, h6, h5⟩ := hbits
  simp [Lcd.command, h7, h6, h5]

/-- Of the commands only a function set moves the interface (R211, R213). -/
theorem Lcd.command_ifc (v : Byte) (l : Lcd) :
    (l.command v).ifc = if v.extractLsb' 5 3 = 0b001#3 then (if v[4] then .if8 else .if4Hi) else l.ifc := by
  split
  next hrow => rw [command_of_functionSetRow hrow]; rfl
  next hrow =>
    have hbits : v[7] = true ∨ v[6] = true ∨ v[5] = false := by revert v; decide
    unfold Lcd.command
    split
    · rfl
    split
    · rfl
    split
    next h7 h6 h5 => simp [h7, h6, h5] at hbits
    repeat' split
    all_goals rfl

/-- A function set for the 4-bit interface keeps it at a byte boundary and takes the line and font bits (R211). -/
theorem Lcd.command_functionSetFor4Bit {v : Byte} (hv : v.extractLsb' 4 4 = 0b0010#4) {l : Lcd}
    (hboundary : l.ifc = .if4Hi) :
    l.command v = { l with panel := { l.panel with nl := v[3], f := v[2] } } := by
  have hbits : v.extractLsb' 5 3 = 0b001#3 ∧ v[4] = false := by revert v; decide
  obtain ⟨hrow, h4⟩ := hbits
  rw [command_of_functionSetRow hrow, functionSet, h4, ← hboundary]
  rfl

/-- Clearing is for good: a second clear changes nothing (R208). -/
theorem Lcd.clear_clear (l : Lcd) : l.clear.clear = l.clear := rfl

section
variable (l : Lcd)

@[simp] theorem Lcd.command_clear : l.command 0x01#8 = l.clear := rfl
@[simp] theorem Lcd.command_displayOff :
    l.command 0x08#8 = { l with panel := { l.panel with d := false, c := false, b := false } } := rfl
@[simp] theorem Lcd.command_displayOn :
    l.command 0x0C#8 = { l with panel := { l.panel with d := true, c := false, b := false } } := rfl
@[simp] theorem Lcd.command_entryForward :
    l.command 0x06#8 = { l with panel := { l.panel with id := true, s := false } } := rfl
@[simp] theorem Lcd.command_line2 : l.command 0xC0#8 = { l with panel := { l.panel with ac := 0x40#7 } } := rfl

end

/-! ### Reference display: a byte at a byte boundary (R206, R208 to R212, R216) -/

/-- At a byte boundary the display executes the byte that a transfer carries (R132, R206). -/
theorem byteDone.lcd_of_boundary {rs : Bool} {v : Byte} {s t : State} (h : byteDone rs v s t)
    (hboundary : s.lcd.ifc = .if4Hi) : t.lcd = s.lcd.execute rs v := by
  obtain ⟨-, -, -, -, hlcd, -⟩ := h
  rw [hlcd, Lcd.receive_pair hboundary, join_hi_lo]

/-- So a command byte is executed as a command. -/
theorem runBus_commandByte_lcd (v : Byte) {s : State} (h : s.lcd.ifc = .if4Hi) :
    (runBus (byteOps false v) s).lcd = s.lcd.command v :=
  (byteDone_runBus false v s).lcd_of_boundary h

/-- And a data byte as a character. -/
theorem runBus_dataByte_lcd (v : Byte) {s : State} (h : s.lcd.ifc = .if4Hi) :
    (runBus (byteOps true v) s).lcd = s.lcd.writeChar v :=
  (byteDone_runBus true v s).lcd_of_boundary h

/-- Settles O13: the display executes the clear command, twice (`clear_clear`). -/
theorem clearDisplayBlanksAndHomes : Obligations.ClearDisplayBlanksAndHomes := by
  intro s hcode hboundary
  have hclear (u : State) (hcfg : u.cfg = s.cfg) (hu : u.lcd.ifc = .if4Hi) :
      (runBus (wordOps u.cfg .clearDisplay) u).lcd = u.lcd.clear := by
    rw [hcfg, wordOps, cmdOps, hcode, runBus_commandByte_lcd _ hu, Lcd.command_clear]
  have hfirst := hclear s rfl hboundary
  refine ⟨_, exec_is_transfer .clearDisplay s, ?_, ?_, _, exec_is_transfer .clearDisplay _, ?_⟩
  · rw [hfirst]
    exact fun _ => Memory.read_nil
  · rw [hfirst]
    rfl
  · rw [hclear _ (runBus_cfg _ s) (by rw [hfirst]; exact hboundary), hfirst, Lcd.clear_clear]

/-- Settles O14: every code of the row is executed as an entry-mode command. -/
theorem entryModeSetsDirection : Obligations.EntryModeSetsDirection := by
  intro s hrow hboundary
  refine ⟨_, exec_is_transfer .entryMode s, (runBus_commandByte_lcd _ hboundary).trans ?_⟩
  rw [Lcd.command_of_entryModeRow hrow]
  rfl

/-- Settles O15: the two codes are executed as on/off commands with their bits. -/
theorem displayControlSwitches : Obligations.DisplayControlSwitches := by
  intro s hoff hon hboundary
  refine ⟨⟨_, exec_is_transfer .displayOff s, (runBus_commandByte_lcd _ hboundary).trans ?_⟩,
    _, exec_is_transfer .displayOn s, (runBus_commandByte_lcd _ hboundary).trans ?_⟩
  · rw [hoff, Lcd.command_displayOff]
  · rw [hon, Lcd.command_displayOn]

/-- Settles O16: every such code is executed as a function set with the interface bit low. -/
theorem functionSetKeepsFourBits : Obligations.FunctionSetKeepsFourBits := fun s hcode hboundary =>
  ⟨_, exec_is_transfer .functionSet s,
    (runBus_commandByte_lcd _ hboundary).trans (Lcd.command_functionSetFor4Bit hcode hboundary)⟩

/-- Settles O17: the code is executed as a set-address command. -/
theorem setLine2MovesCursor : Obligations.SetLine2MovesCursor := by
  intro s hcode hboundary
  have hcode' : s.cfg.line2Code = 0xC0#8 := hcode
  refine ⟨_, exec_is_transfer .setLine2 s, (runBus_commandByte_lcd _ hboundary).trans ?_⟩
  rw [hcode', Lcd.command_line2]

/-- The cursor moves by one in the entry direction, modulo 128 (R216). -/
theorem Lcd.writeChar_ac_toNat (v : Byte) (l : Lcd) :
    (l.writeChar v).panel.ac.toNat =
      if l.panel.id then (l.panel.ac.toNat + 1) % 128 else (l.panel.ac.toNat + 127) % 128 := by
  simp only [Lcd.writeChar]
  split
  · rw [BitVec.toNat_add]; rfl
  · rw [BitVec.toNat_sub, Nat.add_comm]; rfl

/-- Settles O18: the display executes the character, a write of one cell and a move of the cursor. -/
theorem writeCharStoresAndMoves : Obligations.WriteCharStoresAndMoves := by
  intro c s hboundary hcells
  refine ⟨_, exec_is_transfer (.writeChar c) s, ?_⟩
  rw [wordOps, runBus_dataByte_lcd c hboundary]
  exact ⟨Memory.read_write_same hcells, fun a ha => Memory.read_write_other ha, Lcd.writeChar_ac_toNat c s.lcd, rfl⟩

/-! ### Reference display: the wake sequence (R205, R206, R213, R214) -/

/-- In 8-bit mode a nibble with `001` in its high bits is a function set, whatever the undriven lines carry: it sets the
interface by its lowest bit, and the line and font bits (R205, R211). -/
theorem Lcd.receive_functionSet_of_if8 {n : Nibble} (hn : n.extractLsb' 1 3 = 0b001#3) {l : Lcd} (h : l.ifc = .if8) :
    (l.receive false n).ifc = (if n[0] then .if8 else .if4Hi) ∧ (l.receive false n).panel =
      { l.panel with nl := (l.receive false n).panel.nl, f := (l.receive false n).panel.f } := by
  have hbits (m : Nibble) : (join n m).extractLsb' 5 3 = 0b001#3 ∧ (join n m)[4] = n[0] := by revert n m; decide
  obtain ⟨hrow, h4⟩ := hbits (Config.undriven l.draws)
  have hreceive : l.receive false n =
      { l with draws := l.draws + 1 }.functionSet (join n (Config.undriven l.draws)) := by
    rw [← command_of_functionSetRow hrow, receive, receiveNibble, h]
    rfl
  rw [hreceive, ← h4]
  exact ⟨rfl, rfl⟩

/-- In 8-bit mode the wake nibble is a function set for the 8-bit interface (R205, R211). -/
theorem Lcd.receive_wake_of_if8 {l : Lcd} (h : l.ifc = .if8) :
    (l.receive false 0x3#4).ifc = .if8 ∧ (l.receive false 0x3#4).panel =
      { l.panel with nl := (l.receive false 0x3#4).panel.nl, f := (l.receive false 0x3#4).panel.f } :=
  receive_functionSet_of_if8 (by decide) h

/-- In 8-bit mode the mode-switch nibble is a function set for the 4-bit interface (R205, R211). -/
theorem Lcd.receive_mode4_of_if8 {l : Lcd} (h : l.ifc = .if8) :
    (l.receive false 0x2#4).ifc = .if4Hi ∧ (l.receive false 0x2#4).panel =
      { l.panel with nl := (l.receive false 0x2#4).panel.nl, f := (l.receive false 0x2#4).panel.f } :=
  receive_functionSet_of_if8 (by decide) h

/-- Completed by a wake nibble, a byte puts the interface into 8-bit mode if its high nibble is the wake nibble too, and
at a byte boundary else (R206, R211). -/
theorem Lcd.execute_wake_ifc (h : Nibble) {l : Lcd} (hl : l.ifc = .if4Hi) :
    (l.execute false (join h 0x3#4)).ifc = if h = 0x3#4 then .if8 else .if4Hi := by
  refine (command_ifc (join h 0x3#4) l).trans ?_
  rw [hl]
  revert h; decide

/-- Over a held nibble, stray or not, a wake nibble completes such a byte. -/
theorem Lcd.receive_wake_of_if4Lo {h : Nibble} {stray : Bool} {l : Lcd} (hl : l.ifc = .if4Lo h stray) :
    (l.receive false 0x3#4).ifc = if h = 0x3#4 then .if8 else .if4Hi := by
  rw [receive, receiveNibble, hl]
  cases stray with
  | false => exact execute_wake_ifc (l := { l with ifc := .if4Hi }) h rfl
  | true =>
    obtain ⟨hifc, -⟩ := executeStray_panel (l := { l with ifc := .if4Hi }) false (join h 0x3#4)
    exact hifc.trans (execute_wake_ifc h rfl)

/-- Three wake nibbles put the interface into 8-bit mode, wherever it was (R214). -/
theorem Lcd.receive_three_wakes_ifc (l : Lcd) :
    (((l.receive false 0x3#4).receive false 0x3#4).receive false 0x3#4).ifc = .if8 := by
  have two_of_if4Hi (l : Lcd) (hl : l.ifc = .if4Hi) : ((l.receive false 0x3#4).receive false 0x3#4).ifc = .if8 := by
    rw [receive_pair hl, execute_wake_ifc _ hl, if_pos rfl]
  have keep_if8 (l : Lcd) (hl : l.ifc = .if8) : (l.receive false 0x3#4).ifc = .if8 := (receive_wake_of_if8 hl).1
  cases hl : l.ifc with
  | if8 => exact keep_if8 _ (keep_if8 _ (keep_if8 _ hl))
  | if4Hi => exact keep_if8 _ (two_of_if4Hi _ hl)
  | if4Lo h stray =>
    have hfirst := receive_wake_of_if4Lo hl
    split at hfirst
    · exact keep_if8 _ (keep_if8 _ hfirst)
    · exact two_of_if4Hi _ hfirst

/-- So the four nibbles of `INIT` leave a byte boundary of 4-bit mode behind, wherever the interface was (R214). -/
theorem Lcd.receive_wakeSequence_ifc (l : Lcd) :
    ((((l.receive false 0x3#4).receive false 0x3#4).receive false 0x3#4).receive false 0x2#4).ifc = .if4Hi :=
  (receive_mode4_of_if8 l.receive_three_wakes_ifc).1

/-- Under `RS` low the display takes the nibble of a transfer as one of a command, and `RS` stays low (R91). -/
theorem runBus_nibbleOps_rsLow (n : Nibble) {s : State} (hrs : s.lcdRs = false) :
    (runBus (nibbleOps n) s).lcdRs = false ∧ (runBus (nibbleOps n) s).lcd = s.lcd.receive false n := by
  obtain ⟨-, -, hrs', -, hlcd, -⟩ := nibbleDone_runBus n s
  rw [hrs', hlcd, hrs]
  exact ⟨rfl, rfl⟩

/-- `WAKE` with the default nibble under `RS` low: the display takes a wake nibble (R96). -/
theorem exec_wake_rsLow {s : State} (hwake : s.cfg.wakeNibble = 0x3#4) (hrs : s.lcdRs = false) :
    ∃ t, exec .wake s = .next t ∧ t.cfg = s.cfg ∧ t.lcdRs = false ∧ t.lcd = s.lcd.receive false 0x3#4 := by
  rw [← hwake]
  exact ⟨_, exec_is_transfer .wake s, runBus_cfg _ s, runBus_nibbleOps_rsLow _ hrs⟩

/-- `MODE4` with the default nibble under `RS` low: the display takes a mode-switch nibble (R97). -/
theorem exec_mode4_rsLow {s : State} (hmode4 : s.cfg.mode4Nibble = 0x2#4) (hrs : s.lcdRs = false) :
    ∃ t, exec .mode4 s = .next t ∧ t.lcd = s.lcd.receive false 0x2#4 := by
  rw [← hmode4]
  exact ⟨_, exec_is_transfer .mode4 s, (runBus_nibbleOps_rsLow _ hrs).2⟩

/-- Settles O19: each of the two nibbles is a function set of its interface width. -/
theorem initNibblesInEightBitMode : Obligations.InitNibblesInEightBitMode := by
  intro s hwake hmode4 hrs hif8
  obtain ⟨t, ht, -, -, hlcd⟩ := exec_wake_rsLow hwake hrs
  obtain ⟨u, hu, hlcd'⟩ := exec_mode4_rsLow hmode4 hrs
  refine ⟨⟨t, ht, ?_⟩, u, hu, ?_⟩
  · rw [hlcd]
    exact Lcd.receive_wake_of_if8 hif8
  · rw [hlcd']
    exact Lcd.receive_mode4_of_if8 hif8

/-- Settles O20: the four words make the display take the four nibbles of `receive_wakeSequence_ifc`. -/
theorem wakeSequenceResynchronises : Obligations.WakeSequenceResynchronises := by
  intro s hwake hmode4 hrs
  obtain ⟨s1, h1, hcfg1, hrs1, hlcd1⟩ := exec_wake_rsLow hwake hrs
  obtain ⟨s2, h2, hcfg2, hrs2, hlcd2⟩ := exec_wake_rsLow (hcfg1 ▸ hwake) hrs1
  rw [hcfg1] at hcfg2
  obtain ⟨s3, h3, hcfg3, hrs3, hlcd3⟩ := exec_wake_rsLow (hcfg2 ▸ hwake) hrs2
  rw [hcfg2] at hcfg3
  obtain ⟨t, h4, hlcd⟩ := exec_mode4_rsLow (hcfg3 ▸ hmode4) hrs3
  refine ⟨s1, s2, s3, t, h1, h2, h3, h4, ?_⟩
  rw [hlcd, hlcd3, hlcd2, hlcd1]
  exact s.lcd.receive_wakeSequence_ifc

/-- Settles O21: the interface goes by the byte `{h, 3}`; a stray byte leaves a free display state (R213). -/
theorem strayByteLeavesDisplayOpen : Obligations.StrayByteLeavesDisplayOpen := by
  intro s h hwake hrs hheld
  obtain ⟨t, ht, -, -, hlcd⟩ := exec_wake_rsLow hwake hrs
  refine ⟨t, ht, ?_⟩
  rw [hlcd]
  refine ⟨Lcd.receive_wake_of_if4Lo hheld, ?_⟩
  rw [Lcd.receive, Lcd.receiveNibble, hheld]
  rfl

end Sys2Proof.Machine

namespace Sys2Proof.Machine

/-! ### Reference display: what `INIT` makes of it (R136, R214, R215) -/

/-- The display after some pulses, taken in order (R205, R206). -/
def Lcd.receiveAll (ps : List Pulse) (l : Lcd) : Lcd := ps.foldl (fun l p => l.receive p.1 p.2) l

theorem Lcd.receiveAll_append (ps qs : List Pulse) (l : Lcd) :
    l.receiveAll (ps ++ qs) = (l.receiveAll ps).receiveAll qs := List.foldl_append

/-- At a byte boundary the two pulses of a command byte are the command (R92, R206). -/
theorem Lcd.receiveAll_command {l : Lcd} (h : l.ifc = .if4Hi) (v : Byte) (ps : List Pulse) :
    l.receiveAll ((false, hi v) :: (false, lo v) :: ps) = (l.command v).receiveAll ps := by
  have hpair : (l.receive false (hi v)).receive false (lo v) = l.command v := by
    rw [receive_pair h, join_hi_lo]
    rfl
  exact congrArg (receiveAll ps) hpair

/-- The display takes the pulses of a word that is transmitted (R66, R91, R92). -/
theorem runBus_transmitOps_lcd (w : BusWord) (s : State) :
    (runBus (transmitOps w) s).lcd = s.lcd.receiveAll (wordPulses s.lcdRs w) := by
  cases w with
  | n5 w =>
    obtain ⟨-, -, -, -, hlcd, -⟩ := nibbleDone_runBus (n5Nibble w) s
    exact hlcd
  | b9 w =>
    obtain ⟨-, -, -, -, hlcd, -⟩ := byteDone_runBus (b9Rs w) (b9Value w) s
    exact hlcd

/-- So it takes the pulses of the words of `INIT`, which are sent under `RS` low (R136). -/
theorem BetweenWords.runBus_initSteps_lcd {s : State} {ws : List BusWord} (hws : ∀ w ∈ ws, RsLow w)
    (h : BetweenWords s) : (runBus (initSteps ws) s).lcd = s.lcd.receiveAll (ws.flatMap (wordPulses false)) := by
  induction ws generalizing s with
  | nil => rfl
  | cons w ws ih =>
    obtain ⟨hw, hws'⟩ := List.forall_mem_cons.1 hws
    obtain ⟨hstep, -⟩ := (h.transmit hw).delay
    obtain ⟨hrs, -⟩ := h
    have hrun : runBus (initSteps (w :: ws)) s = runBus (initSteps ws) ((runBus (transmitOps w) s).delayAll .init) := by
      rw [initSteps_cons, initStep, runBus_append, runBus_append]
      rfl
    rw [hrun, ih hws' hstep, State.delayAll_lcd, runBus_transmitOps_lcd, hrs, List.flatMap_cons, Lcd.receiveAll_append]

/-- Out of reset the transfer of `INIT` gives the display the pulses of its words. -/
theorem runBus_initOps_lcd {s : State} (h : outOfReset s) :
    (runBus (initOps s.cfg) s).lcd = s.lcd.receiveAll (initPulses s.cfg) := by
  obtain ⟨-, he, -, hdly, -⟩ := h
  have hstart : BetweenWords ((s.setRs false).elapse 1) := ⟨rfl, rfl, he, hdly⟩
  rw [initOps_eq, runBus_cons, BusOp.run, hstart.runBus_initSteps_lcd fun w => rsLow_of_mem_initWords, initPulses,
    List.flatMap_map]
  rfl

/-- With the five commands and the standard codes the pulses of `INIT` are the wake sequence and five command bytes,
after which the display is known (R214, R215). -/
theorem Lcd.receiveAll_initPulses {c : Config} (hc : c.codesStandard) (hfive : c.nInitCmds = 5)
    (hfunction : c.functionSetFor4Bit) (l : Lcd) :
    (l.receiveAll (initPulses c)).ready ∧ (l.receiveAll (initPulses c)).panel.cells = [] ∧
      (l.receiveAll (initPulses c)).panel.ac = 0 ∧
      (l.receiveAll (initPulses c)).panel.nl = c.functionSetCode[3] ∧
      (l.receiveAll (initPulses c)).panel.f = c.functionSetCode[2] := by
  obtain ⟨hwake, hmode4, hoff, hclear, hentry, hon, -⟩ := hc
  have hpulses : initPulses c = [(false, 0x3#4), (false, 0x3#4), (false, 0x3#4), (false, 0x2#4)] ++
      [c.functionSetCode, 0x08#8, 0x01#8, 0x06#8, 0x0C#8].flatMap fun v => [(false, hi v), (false, lo v)] := by
    simp [initPulses, initWords_five hfive, encode, wordPulses, hwake, hmode4, hoff, hclear, hentry, hon]
  have hboundary : (l.receiveAll [(false, 0x3#4), (false, 0x3#4), (false, 0x3#4), (false, 0x2#4)]).ifc = .if4Hi :=
    l.receive_wakeSequence_ifc
  rw [hpulses, receiveAll_append]
  generalize l.receiveAll _ = m at hboundary ⊢
  simp only [List.flatMap_cons, List.flatMap_nil, List.cons_append, List.nil_append]
  rw [receiveAll_command hboundary, command_functionSetFor4Bit hfunction hboundary, receiveAll_command,
    command_displayOff, receiveAll_command, command_clear, receiveAll_command, command_entryForward,
    receiveAll_command, command_displayOn]
  · exact ⟨⟨hboundary, rfl, rfl, rfl, rfl, rfl⟩, rfl, rfl, rfl, rfl⟩
  all_goals exact hboundary

/-- Settles O45: the run is the transfer of `INIT` (`run_init`), whose pulses the display takes. -/
theorem initLeavesDisplayKnown : Obligations.InitLeavesDisplayKnown := by
  intro s hout hc hcodes hfive hlow
  obtain ⟨hfunction, -, hpos, -, -, hfits⟩ := hc
  obtain ⟨hready, hcells, hac, hnl, hf⟩ := s.lcd.receiveAll_initPulses hcodes hfive hfunction
  rw [← runBus_initOps_lcd hout] at hready hcells hac hnl hf
  refine ⟨_, run_init hout hpos hfits hlow, hready, fun a => ?_, hac, hnl, hf⟩
  exact (congrArg (Memory.read cellBlank · a) hcells).trans Memory.read_nil

/-! ### Reference display: a text from the cursor on (R216) -/

/-- The display after the characters of a text, written one after the other (R216). -/
def Lcd.writeText : List Byte → Lcd → Lcd
  | [], l => l
  | v :: text, l => writeText text (l.writeChar v)

section
variable {l : Lcd} (h : l.ready)
include h

/-- A ready display is at a byte boundary. -/
theorem Lcd.ready.atBoundary : l.ifc = .if4Hi := by
  obtain ⟨hboundary, -⟩ := h
  exact hboundary

/-- A ready display moves its cursor forward. -/
theorem Lcd.ready.forward : l.panel.id = true := by
  obtain ⟨-, hid, -⟩ := h
  exact hid

/-- Clearing keeps the display ready. -/
theorem Lcd.ready.clear : l.clear.ready := by
  obtain ⟨hboundary, -, hflags⟩ := h
  exact ⟨hboundary, rfl, hflags⟩

/-- So does moving the cursor to line 2. -/
theorem Lcd.ready.line2 : (l.command 0xC0#8).ready := h

/-- So does writing a character. -/
theorem Lcd.ready.writeChar (v : Byte) : (l.writeChar v).ready := h

/-- So does writing a text. -/
theorem Lcd.ready.writeText (text : List Byte) : (l.writeText text).ready := by
  induction text generalizing l with
  | nil => exact h
  | cons v text ih => exact ih (h.writeChar v)

/-- A ready display already has the entry mode of the standard code (R209). -/
theorem Lcd.ready.command_entryForward : l.command 0x06#8 = l := by
  obtain ⟨-, hid, hs, -⟩ := h
  rw [Lcd.command_entryForward, ← hid, ← hs]

end

/-- In forward entry a character before the last cell moves the cursor one on. -/
theorem Lcd.writeChar_ac_of_forward {l : Lcd} (hid : l.panel.id = true) (hac : l.panel.ac.toNat + 1 < 128) (v : Byte) :
    (l.writeChar v).panel.ac.toNat = l.panel.ac.toNat + 1 := by
  rw [writeChar_ac_toNat, if_pos hid, Nat.mod_eq_of_lt hac]

section
variable {l : Lcd} {text : List Byte} (hid : l.panel.id = true) (hfits : l.panel.ac.toNat + text.length < 128)
include hid hfits

/-- A text that fits moves the cursor by its length. -/
theorem Lcd.writeText_ac : (l.writeText text).panel.ac.toNat = l.panel.ac.toNat + text.length := by
  induction text generalizing l with
  | nil => rfl
  | cons v text ih =>
    rw [List.length_cons] at hfits ⊢
    have hac := writeChar_ac_of_forward hid (by omega) v
    rw [writeText, ih (l := l.writeChar v) hid (by omega), hac]
    omega

/-- A text that fits stands in the cells from the cursor on, and every other cell is as before. -/
theorem Lcd.read_writeText (hcells : Memory.wf cellCap cellBlank l.panel.cells) (a : Nat) :
    Memory.read cellBlank (l.writeText text).panel.cells a =
      if l.panel.ac.toNat ≤ a ∧ a < l.panel.ac.toNat + text.length then text.getD (a - l.panel.ac.toNat) cellBlank
      else Memory.read cellBlank l.panel.cells a := by
  induction text generalizing l with
  | nil => rw [if_neg (by rw [List.length_nil]; omega)]; rfl
  | cons v text ih =>
    rw [List.length_cons] at hfits ⊢
    have hac := writeChar_ac_of_forward hid (by omega) v
    rw [writeText, ih (l := l.writeChar v) hid (by omega) (Memory.wf_write l.panel.ac.isLt hcells), hac]
    rcases Nat.lt_trichotomy a l.panel.ac.toNat with hlt | heq | hgt
    · rw [if_neg (by omega), if_neg (by omega)]
      exact Memory.read_write_other hlt.ne
    · rw [if_neg (by omega), if_pos (by omega), heq, Nat.sub_self]
      exact Memory.read_write_same hcells
    · have hsub : a - l.panel.ac.toNat = a - (l.panel.ac.toNat + 1) + 1 := by omega
      have hother : Memory.read cellBlank (l.writeChar v).panel.cells a = Memory.read cellBlank l.panel.cells a :=
        Memory.read_write_other hgt.ne'
      rw [hsub, List.getD_cons_succ, hother]
      exact if_congr (by omega) rfl rfl

end

/-- Writing a text keeps the cells canonical. -/
theorem Lcd.writeText_wf {l : Lcd} (h : Memory.wf cellCap cellBlank l.panel.cells) (text : List Byte) :
    Memory.wf cellCap cellBlank (l.writeText text).panel.cells := by
  induction text generalizing l with
  | nil => exact h
  | cons v text ih => exact ih (l := l.writeChar v) (Memory.wf_write l.panel.ac.isLt h)

/-! ### Reference display: a refresh on the lines (R139, R182) -/

/-- A command byte ends between two words, from wherever it began. -/
theorem betweenWords_commandByte (v : Byte) (s : State) : BetweenWords (runBus (byteOps false v) s) := by
  obtain ⟨hrs, he, -, hdly, -⟩ := byteDone_runBus false v s
  exact ⟨hrs, traceRs_byteOps false v s, he, hdly⟩

/-- So does the dispatch of a character, which ends with a command byte (R134, R139). -/
theorem betweenWords_charOps (c : Config) (ch : Byte) (s : State) : BetweenWords (runBus (charOps c ch) s) := by
  unfold charOps
  split
  · exact betweenWords_commandByte _ s
  · rw [runBus_dataOps]
    exact betweenWords_commandByte _ _

/-- So does a text, if it begins there. -/
theorem BetweenWords.text {s : State} (h : BetweenWords s) (c : Config) (text : List Byte) :
    BetweenWords (runBus (textBusOps c text) s) := by
  induction text generalizing s with
  | nil => exact h
  | cons ch text ih =>
    rw [textBusOps, List.flatMap_cons, runBus_append]
    exact ih (betweenWords_charOps c ch s)

/-- A text with the marker in it: the text before it, the second-line command, the text after it (R139). -/
theorem textBusOps_marked (c : Config) (k l : List Byte) :
    textBusOps c (k ++ c.lineBreak :: l) = textBusOps c k ++ (byteOps false c.line2Code ++ textBusOps c l) := by
  rw [textBusOps, List.flatMap_append, List.flatMap_cons, charOps, if_pos rfl, cmdOps, textBusOps, textBusOps]

section
variable {c : Config} (hentry : c.entryModeCode = 0x06#8) {s : State} (hready : s.lcd.ready)
include hentry hready

/-- On a ready display a data byte writes its character, and the entry-mode command after it changes nothing (R134). -/
theorem runBus_dataOps_lcd (v : Byte) : (runBus (dataOps c v) s).lcd = s.lcd.writeChar v := by
  have hdata := runBus_dataByte_lcd v hready.atBoundary
  have hready' : (runBus (byteOps true v) s).lcd.ready := by
    rw [hdata]
    exact hready.writeChar v
  rw [runBus_dataOps, hentry, runBus_commandByte_lcd _ hready'.atBoundary, hready'.command_entryForward, hdata]

/-- On a ready display a text without the marker is written from the cursor on (R139). -/
theorem runBus_textBusOps_lcd {text : List Byte} (hplain : c.lineBreak ∉ text) :
    (runBus (textBusOps c text) s).lcd = s.lcd.writeText text := by
  induction text generalizing s with
  | nil => rfl
  | cons v text ih =>
    obtain ⟨hne, hrest⟩ := List.ne_and_not_mem_of_not_mem_cons hplain
    have hchar := runBus_dataOps_lcd hentry hready v
    rw [textBusOps, List.flatMap_cons, charOps, if_neg (Ne.symm hne), runBus_append]
    rw [← textBusOps, ih (by rw [hchar]; exact hready.writeChar v) hrest, hchar, Lcd.writeText]

end

/-- The display after a refresh with the text `k` on line 1 and the text `l` on line 2 (R218). -/
def Lcd.refreshed (k l : List Byte) (d : Lcd) : Lcd := ((d.clear.writeText k).command 0xC0#8).writeText l

/-- A refresh clears a ready display and writes the text before the marker from cell 0, the text after it from 0x40. -/
theorem runBus_refresh_lcd {c : Config} (hc : c.codesStandard) {k l : List Byte} (hk : c.lineBreak ∉ k)
    (hl : c.lineBreak ∉ l) {s : State} (hready : s.lcd.ready) :
    (runBus (clearOps c ++ textBusOps c (k ++ c.lineBreak :: l)) s).lcd = s.lcd.refreshed k l := by
  obtain ⟨-, -, -, hclear, hentry, -, hline2⟩ := hc
  have hready1 : s.lcd.clear.ready := hready.clear
  have hready2 : (s.lcd.clear.writeText k).ready := hready1.writeText k
  have hcleared : (runBus (clearOps c) s).lcd = s.lcd.clear := by
    rw [clearOps, cmdOps, hclear, runBus_commandByte_lcd _ hready.atBoundary, Lcd.command_clear]
  rw [← hcleared] at hready1 hready2
  have hline1 := runBus_textBusOps_lcd hentry hready1 hk
  rw [← hline1] at hready2
  have hmoved := runBus_commandByte_lcd c.line2Code hready2.atBoundary
  rw [hline2] at hmoved
  have hready3 := hready2.line2
  rw [← hmoved] at hready3
  rw [runBus_append, textBusOps_marked, runBus_append, runBus_append, hline2,
    runBus_textBusOps_lcd hentry hready3 hl, hmoved, hline1, hcleared, Lcd.refreshed]

/-! ### Reference display: the run of a refresh (R182, R218, R280) -/

/-- A transfer from rest leaves the counter at rest. -/
theorem runBus_dly (l : List BusOp) {s : State} (h : s.dly = 0) : (runBus l s).dly = 0 := by
  induction l generalizing s with
  | nil => exact h
  | cons op l ih => exact ih (op.run_dly h)

/-- After a transfer from rest the inputs have moved on by its ticks. -/
theorem runBus_inputAt (l : List BusOp) {s : State} (h : s.dly = 0) (k : Nat) :
    (runBus l s).inputAt k = s.inputAt (busTicks s.cfg l + k) := by
  induction l generalizing s k with
  | nil => rw [runBus_nil, busTicks_nil, Nat.zero_add]
  | cons op l ih =>
    obtain ⟨-, hcfg, -⟩ := op.run_frame s
    rw [runBus_cons, ih (op.run_dly h), op.run_inputAt h, hcfg, busTicks_cons, Nat.add_assoc]

/-- `rst` low for a while, seen after a transfer from rest. -/
theorem rstLow_runBus {l : List BusOp} {s : State} (h : s.dly = 0) {n : Nat} (hlow : s.rstLow (busTicks s.cfg l + n)) :
    (runBus l s).rstLow n := fun k hk => by
  rw [runBus_inputAt l h]
  exact hlow _ (Nat.add_lt_add_left hk _)

section
variable {s : State} (hcall : s.call = none) (hc : s.cfg.wf) (hrest : s.dly = 0)
include hcall hc hrest

/-- `CLEAR` is its transfer, and `TEXT` follows (R32, R142). -/
theorem run_clear (hpc : s.pc = { phase := .clear, u := 0 }) (hlow : s.rstLow (byteTicks s.cfg)) :
    run (byteTicks s.cfg) s = .next ((runBus (clearOps s.cfg) s).goto { phase := .text, u := 0 }) := by
  obtain ⟨-, -, hpos, -⟩ := hc
  have hops : s.ops = some ((clearOps s.cfg).map .bus) := by rw [State.ops, hpc, phaseOps]
  have hticks : busTicks s.cfg (clearOps s.cfg) = byteTicks s.cfg := busTicks_byteOps ..
  rw [← hticks] at hlow ⊢
  have hne : clearOps s.cfg ≠ [] := List.cons_ne_nil _ _
  rw [run_transfer hne hpos rfl rfl hcall hrest hops (by rw [hpc, List.drop_zero, List.append_nil]) hlow, hpc]
  rfl

/-- `TEXT` over a frame of the block is its transfer and `TextEnd`, and `THROTTLE` follows (R32, R140). -/
theorem run_text (hpc : s.pc = { phase := .text, u := 0 }) (hframe : s.frame = format s.cfg s.snap)
    (hlow : s.rstLow (35 * byteTicks s.cfg + 1)) :
    run (35 * byteTicks s.cfg + 1) s =
      .next ((((runBus (textBusOps s.cfg ((formatCells s.cfg s.snap).take 18)) s).textEnd 18).goto
        { phase := .throttle, u := 0 }).elapse 1) := by
  obtain ⟨hlen, hticks⟩ := textBusOps_size_format hc s.snap
  obtain ⟨-, -, hpos, -⟩ := id hc
  have hops : s.ops = some (textOps s.cfg ((formatCells s.cfg s.snap).take 18)) := by
    rw [State.ops, hpc, hframe, phaseOps, frameText_format hc, Option.map_some]
  have hne : textBusOps s.cfg ((formatCells s.cfg s.snap).take 18) ≠ [] :=
    List.ne_nil_of_length_pos (by rw [hlen]; decide)
  have hlen' := textOps_length s.cfg ((formatCells s.cfg s.snap).take 18)
  generalize htext : textBusOps s.cfg ((formatCells s.cfg s.snap).take 18) = ops at *
  rw [← hticks] at hlow ⊢
  have htransfer := run_transfer hne hpos rfl rfl hcall hrest hops (by rw [hpc, List.drop_zero, textOps, htext])
    (rstLow_mono hlow (Nat.le_succ _))
  rw [hpc, hlen', hlen, pcAfter, if_pos (by decide)] at htransfer
  obtain ⟨hframe', hcfg, -, -, hsnap, -, -, -, hcall'⟩ := runBus_frame ops s
  have hend := textEndStoresCount ((runBus ops s).goto { phase := .text, u := 385 }) (hcall'.trans hcall)
    (rstLow_runBus hrest hlow 0 Nat.one_pos) (hcfg.symm ▸ hc)
    (hframe'.trans (hframe.trans (congrArg₂ format hcfg hsnap).symm)) rfl
  exact run_then_step htransfer hend

/-- A refresh is the transfers of `CLEAR` and `TEXT` and then `TextEnd` (R182, R280). -/
theorem run_refresh (hpc : s.pc = { phase := .clear, u := 0 }) (hframe : s.frame = format s.cfg s.snap)
    (hlow : s.rstLow (refreshTicks s.cfg)) :
    run (refreshTicks s.cfg) s =
      .next ((((runBus (clearOps s.cfg ++ textBusOps s.cfg ((formatCells s.cfg s.snap).take 18)) s).textEnd 18).goto
        { phase := .throttle, u := 0 }).elapse 1) := by
  have hsum : refreshTicks s.cfg = byteTicks s.cfg + (35 * byteTicks s.cfg + 1) := by
    rw [refreshTicks]
    omega
  have hticks : busTicks s.cfg (clearOps s.cfg) = byteTicks s.cfg := busTicks_byteOps ..
  rw [hsum] at hlow ⊢
  have hclear := run_clear hcall hc hrest hpc (rstLow_mono hlow (Nat.le_add_right ..))
  obtain ⟨hframe', hcfg, -, -, hsnap, -, -, -, hcall'⟩ := runBus_frame (clearOps s.cfg) s
  have hlow' : (runBus (clearOps s.cfg) s).rstLow (35 * byteTicks s.cfg + 1) :=
    rstLow_runBus hrest (hticks.symm ▸ hlow)
  have htext := run_text (s := (runBus (clearOps s.cfg) s).goto { phase := .text, u := 0 }) (hcall'.trans hcall)
    (hcfg.symm ▸ hc) (runBus_dly _ hrest) rfl (hframe'.trans (hframe.trans (congrArg₂ format hcfg hsnap).symm))
    (hcfg.symm ▸ hlow')
  rw [show ((runBus (clearOps s.cfg) s).goto { phase := .text, u := 0 }).cfg = s.cfg from hcfg,
    show ((runBus (clearOps s.cfg) s).goto { phase := .text, u := 0 }).snap = s.snap from hsnap] at htext
  rw [run_add hclear, htext, runBus_goto, runBus_append]
  rfl

end

/-! ### Reference display: what a refresh shows (R112, R218) -/

/-- After a refresh the display is ready again (R218). -/
theorem Lcd.ready.refreshed {d : Lcd} (h : d.ready) (k l : List Byte) : (d.refreshed k l).ready :=
  (h.clear.writeText k).line2.writeText l

/-- After a refresh the cursor is behind the text of line 2, that text is in the cells from 0x40, the text of line 1 in
those from 0, and the others are blank. -/
theorem Lcd.refreshed_panel {d : Lcd} (h : d.ready) {k l : List Byte} (hk : k.length < 64) (hl : l.length < 64) :
    (d.refreshed k l).panel.ac.toNat = 0x40 + l.length ∧
      ∀ a, Memory.read cellBlank (d.refreshed k l).panel.cells a =
        if 0x40 ≤ a ∧ a < 0x40 + l.length then l.getD (a - 0x40) cellBlank
        else if a < k.length then k.getD a cellBlank else 0x20#8 := by
  have hline2 := (h.clear.writeText k).line2.forward
  have hfits : ((d.clear.writeText k).command 0xC0#8).panel.ac.toNat + l.length < 128 := by
    rw [command_line2]
    exact Nat.add_lt_add_left hl 0x40
  refine ⟨writeText_ac hline2 hfits, fun a => ?_⟩
  have hline1 := read_writeText (l := d.clear) rfl (text := k) (by change 0 + k.length < 128; omega) Memory.wf_nil a
  have hcells := read_writeText hline2 hfits (writeText_wf Memory.wf_nil k) a
  rw [refreshed, hcells]
  refine if_congr Iff.rfl rfl (hline1.trans ?_)
  change (if 0 ≤ a ∧ a < 0 + k.length then k.getD (a - 0) cellBlank else cellBlank) = _
  simp

/-- The first 18 cells of a frame are its text (R112). -/
theorem read_format_text (c : Config) (r : Readings) {j : Nat} (hj : j < 18) (b : Byte) :
    Memory.read frameBlank (format c r) j = ((formatCells c r).take 18).getD j b := by
  have hread := read_format c r (show j < frameCap from hj.trans (by decide))
  rw [List.getD_eq_getElem?_getD, List.getElem?_take_of_lt hj, ← hread, Option.getD_some]

/-- After a refresh with the text of a frame the lines of the display are those of the frame (R218). -/
theorem read_refreshed_format {c : Config} {r : Readings} {k l : List Byte} (hk : k.length = 7) (hl : l.length = 10)
    (htext : (formatCells c r).take 18 = k ++ c.lineBreak :: l) {d : Lcd} (hready : d.ready) (a : Nat) :
    Memory.read cellBlank (d.refreshed k l).panel.cells a =
      if a < 7 then Memory.read frameBlank (format c r) a
      else if 0x40 ≤ a ∧ a < 0x4A then Memory.read frameBlank (format c r) (8 + (a - 0x40))
      else 0x20#8 := by
  obtain ⟨-, hcells⟩ := Lcd.refreshed_panel hready (k := k) (l := l) (by omega) (by omega)
  rw [hcells, hk, hl]
  by_cases h1 : a < 7
  · rw [if_neg (by omega), if_pos h1, if_pos h1, read_format_text c r (by omega) cellBlank, htext,
      List.getD_append _ _ _ _ (by omega)]
  rw [if_neg h1, if_neg h1]
  refine if_ctx_congr Iff.rfl (fun h2 => ?_) fun _ => rfl
  have hindex : 8 + (a - 0x40) - 7 = a - 0x40 + 1 := by omega
  rw [read_format_text c r (by omega) cellBlank, htext, List.getD_append_right _ _ _ _ (by omega), hk, hindex,
    List.getD_cons_succ]

/-- Settles O46: the run is the transfers of `CLEAR` and `TEXT` (`run_refresh`), after which the display is `refreshed`
with the two halves of the text of the frame. -/
theorem refreshShowsTheFrame : Obligations.RefreshShowsTheFrame := by
  intro s hcall hc hcodes hrest hpc hframe hready hlow
  obtain ⟨k, l, htext, hk, hl, hkplain, hlplain⟩ := formatCells_eq_marked hc s.snap
  have hrun := run_refresh hcall hc hrest hpc hframe hlow
  have hlcd := runBus_refresh_lcd hcodes hkplain hlplain hready
  rw [← htext] at hlcd
  obtain ⟨hac, -⟩ := Lcd.refreshed_panel hready (k := k) (l := l) (by omega) (by omega)
  obtain ⟨hrs, -, he, hdly⟩ : BetweenWords
      (runBus (clearOps s.cfg ++ textBusOps s.cfg ((formatCells s.cfg s.snap).take 18)) s) := by
    rw [runBus_append]
    exact (betweenWords_commandByte s.cfg.clearCode s).text s.cfg _
  obtain ⟨hframe', hcfg, hch, hcur, hsnap, -⟩ :=
    runBus_frame (clearOps s.cfg ++ textBusOps s.cfg ((formatCells s.cfg s.snap).take 18)) s
  generalize runBus _ s = t at *
  refine ⟨_, hrun, rfl, rfl, hrs, he, hdly, hch, hcur, hsnap, hframe', hcfg, ?_⟩
  change t.lcd.ready ∧ t.lcd.panel.ac = 0x4A#7 ∧ ∀ a, Memory.read cellBlank t.lcd.panel.cells a = _
  rw [hlcd, hframe]
  refine ⟨hready.refreshed k l, BitVec.eq_of_toNat_eq (by rw [hac, hl]; rfl),
    read_refreshed_format hk hl htext hready⟩

end Sys2Proof.Machine

namespace Sys2Proof.Machine

/-! ### Exceptions: the step never stops (R230), and which µop looks at which input (R241) -/

/-- Settles O50: with `rst` high the step is the reset; with `rst` low, `pc` is on a µop of its phase (`Inv.control`) and
the step is its tick. -/
theorem invariantNeverStops : Obligations.InvariantNeverStops := by
  intro s h
  obtain ⟨ops, hops, hlt⟩ := h.control
  cases hrst : s.present.rst with
  | true => exact ⟨_, step_of_rst h.idle hrst⟩
  | false => exact ⟨_, step_eq h.idle hrst hops (List.getElem?_eq_getElem hlt)⟩

/-- Two input levels agree on what a µop names: `adc_done` for a poll, `adc_result` for a read, its button for a button
read (R31). -/
def MicroOp.SeesAlike (inp inp' : Inputs) : MicroOp → Prop
  | .adcPoll => inp.adcDone = inp'.adcDone
  | .adcRead _ => inp.adcResult = inp'.adcResult
  | .readBtn k => inp.button k = inp'.button k
  | .bus _ | .adcSel _ | .adcSample | .adcConvert | .decide | .update | .textEnd _ => True

section
variable {inp inp' : Inputs} {op : MicroOp}

/-- A µop writes the same under inputs it sees alike. -/
theorem MicroOp.SeesAlike.perform_eq (h : op.SeesAlike inp inp') (s : State) : op.perform inp s = op.perform inp' s := by
  cases op with
  | adcPoll => exact congrArg (fun level => s.emit (.adcDone level)) h
  | adcRead r => exact congrArg (s.adcRead r) h
  | readBtn k => exact congrArg (s.readBtn k) h
  | bus | adcSel | adcSample | adcConvert | decide | update | textEnd => rfl

/-- A µop stays or ends alike under inputs it sees alike: only a poll asks them (R30). -/
theorem MicroOp.SeesAlike.holds_eq (h : op.SeesAlike inp inp') (s : State) : op.holds inp s = op.holds inp' s := by
  cases op with
  | adcPoll => exact congrArg Bool.not h
  | bus b => cases b <;> rfl
  | adcRead | readBtn | adcSel | adcSample | adcConvert | decide | update | textEnd => rfl

/-- So its tick is the same. -/
theorem MicroOp.SeesAlike.tick_eq (h : op.SeesAlike inp inp') (len : Nat) (s : State) :
    op.tick len inp s = op.tick len inp' s := by
  rw [MicroOp.tick, MicroOp.tick, h.perform_eq, h.holds_eq]

/-- Of the inputs a tick sees `rst` and what the µop at `pc` sees (R33). -/
theorem tick_eq_of_seesAlike {s : State} (hrst : inp.rst = inp'.rst)
    (h : ∀ op, s.currentOp = some op → op.SeesAlike inp inp') : tick inp s = tick inp' s := by
  unfold tick
  rw [hrst]
  cases hops : s.ops with
  | none => rfl
  | some ops =>
    cases hop : ops[s.pc.u]? with
    | none => simp only [hop]
    | some op =>
      have hcur : s.currentOp = some op := by rw [State.currentOp, hops]; exact hop
      simp only [hop, (h op hcur).tick_eq]

end

/-- Settles O58: what the statement assumes of the two inputs is that the µop at `pc` sees them alike (R241 (b)). -/
theorem inputsReadOnlyWhereNamed : Obligations.InputsReadOnlyWhereNamed := by
  intro inp inp' s hrst hpoll hread hbutton
  refine tick_eq_of_seesAlike hrst fun op hcur => ?_
  cases op with
  | adcPoll => exact hpoll hcur
  | adcRead r => exact hread r hcur
  | readBtn k => exact hbutton k hcur
  | bus | adcSel | adcSample | adcConvert | decide | update | textEnd => trivial

end Sys2Proof.Machine

namespace Sys2Proof.Machine

/-! ### Reset and hazards: ticks and sizes (R280, R32, R185) -/

/-- A transfer µop that begins with the counter at rest takes its ticks, and as many input levels go by (R31, D2). -/
theorem BusOp.run_time (op : BusOp) {s : State} (h : s.dly = 0) :
    (op.run s).clock = s.clock + op.ticks s.cfg ∧ (op.run s).inputs = s.inputs.drop (op.ticks s.cfg) := by
  cases op with
  | delay d => rw [BusOp.run, delayAll_of_rest h]; exact ⟨rfl, rfl⟩
  | setRs | setD | setE => exact ⟨rfl, rfl⟩

/-- So a transfer takes the ticks of its µops. -/
theorem runBus_time (l : List BusOp) {s : State} (h : s.dly = 0) :
    (runBus l s).clock = s.clock + busTicks s.cfg l ∧ (runBus l s).inputs = s.inputs.drop (busTicks s.cfg l) := by
  induction l generalizing s with
  | nil => exact ⟨rfl, rfl⟩
  | cons op l ih =>
    obtain ⟨hclock, hinputs⟩ := op.run_time h
    obtain ⟨hclock', hinputs'⟩ := ih (op.run_dly h)
    obtain ⟨-, hcfg, -⟩ := op.run_frame s
    rw [runBus_cons, busTicks_cons, hclock', hinputs', hcfg, hclock, hinputs, Nat.add_assoc, List.drop_drop]
    exact ⟨rfl, rfl⟩

/-- Settles O11: the instruction transmits its word, and the framing of a word takes the ticks of its format. -/
theorem wordsTakeTheirTicks : Obligations.WordsTakeTheirTicks := fun i s hrest =>
  ⟨_, exec_eq_transmit i s, busTicks_transmitOps s.cfg (encode s.cfg i) ▸ runBus_time _ hrest⟩

theorem initSteps_append (ws ws' : List BusWord) : initSteps (ws ++ ws') = initSteps ws ++ initSteps ws' :=
  List.flatMap_append

/-- A step of `INIT` is one µop longer than the framing of its word: 12 for a command byte (R132, R136). -/
theorem initSteps_commands_length (vs : List Byte) :
    (initSteps (vs.map fun v => .b9 (b9Word false v))).length = 12 * vs.length := by
  induction vs with
  | nil => rfl
  | cons v vs ih =>
    rw [List.map_cons, initSteps_cons, List.length_append, ih, List.length_cons, Nat.mul_succ, Nat.add_comm]
    rfl

/-- `INIT` is `SetRS(0)`, four steps of 6 µops for the nibbles, and 12 for each command (R136, C1). -/
theorem initOps_length {c : Config} (h : c.initCountFits) : (initOps c).length = 25 + 12 * c.nInitCmds := by
  obtain ⟨vs, hlen, hwords⟩ := encode_initWords h
  rw [initOps_eq, hwords, initSteps_append, List.length_cons, List.length_append, initSteps_commands_length, hlen,
    Nat.add_right_comm]
  rfl

/-- Settles O43: the lists of fixed shape are counted as they stand, `INIT` by its words and `TEXT` by its characters. -/
theorem operationSizes : Obligations.OperationSizes := by
  intro c n rs v text
  have hbyte : busTicks c (byteOps rs v) = 7 + 2 * (c.tEHold + c.tSettle) := by
    rw [busTicks_byteOps, byteTicks, nibbleTicks]
    omega
  refine ⟨rfl, busTicks_nibbleOps c n, rfl, hbyte, rfl, busTicks_dataOps c v,
    fun hfits => ⟨initOps_length hfits, busTicks_initOps hfits⟩, fun hfive => ?_, rfl, fun hplain => ?_⟩
  · rw [initOps_length hfive.le, hfive]
  · obtain ⟨hlen, -⟩ := textBusOps_size hplain
    rw [textOps_length, hlen]

/-! ### Reset and hazards: the lines move only while `E` is low (R268) -/

/-- The µops that write a data line or the mode-select line (R31). -/
def MicroOp.movesLine : MicroOp → Bool
  | .bus (.setRs _) | .bus (.setD _) => true
  | _ => false

/-- A µop that moves no line leaves the data lines and the mode-select line. -/
theorem MicroOp.perform_keeps_lines {op : MicroOp} (h : op.movesLine = false) (inp : Inputs) (s : State) :
    (op.perform inp s).lcdD = s.lcdD ∧ (op.perform inp s).lcdRs = s.lcdRs := by
  cases op with
  | bus b =>
    cases b with
    | setRs | setD => cases h
    | setE => exact ⟨rfl, rfl⟩
    | delay d => exact ⟨s.delayTick_lcdD d, s.delayTick_lcdRs d⟩
  | adcSel | adcSample | adcConvert | adcPoll | adcRead | readBtn | decide | update | textEnd => exact ⟨rfl, rfl⟩

/-- A µop that moves a line leaves `E`. -/
theorem MicroOp.levelAfter_of_movesLine {op : MicroOp} (h : op.movesLine = true) (e : Bool) : levelAfter e [op] = e := by
  cases op with
  | bus b =>
    cases b with
    | setRs | setD => rfl
    | setE | delay => cases h
  | adcSel | adcSample | adcConvert | adcPoll | adcRead | readBtn | decide | update | textEnd => cases h

/-- Whether a list of µops, begun with `E` at `e`, moves lines only where its own `SetE`s have put `E` low (R268). -/
def movesWhileLow (e : Bool) : List MicroOp → Bool
  | [] => true
  | op :: rest => (!op.movesLine || !e) && movesWhileLow (levelAfter e [op]) rest

theorem levelAfter_cons (e : Bool) (op : MicroOp) (l : List MicroOp) :
    levelAfter e (op :: l) = levelAfter (levelAfter e [op]) l := levelAfter_append e [op] l

theorem movesWhileLow_append (e : Bool) (k l : List MicroOp) :
    movesWhileLow e (k ++ l) = (movesWhileLow e k && movesWhileLow (levelAfter e k) l) := by
  induction k generalizing e with
  | nil => rfl
  | cons op k ih => rw [List.cons_append, movesWhileLow, ih, movesWhileLow, levelAfter_cons e op k, Bool.and_assoc]

/-- In such a list `E` is low before every µop that moves a line. -/
theorem levelAfter_take_of_movesWhileLow {e : Bool} {l : List MicroOp} {op : MicroOp} {u : Nat}
    (h : movesWhileLow e l = true) (hop : l[u]? = some op) (hmoves : op.movesLine = true) :
    levelAfter e (l.take u) = false := by
  induction l generalizing e u with
  | nil => cases hop
  | cons a l ih =>
    obtain ⟨hfirst, hrest⟩ := Bool.and_eq_true_iff.1 h
    cases u with
    | zero =>
      cases hop
      have hlow : e = false := by simpa [hmoves] using hfirst
      exact hlow
    | succ u =>
      rw [List.take_succ_cons, levelAfter_cons]
      exact ih hrest hop

/-- A concatenation of transfers that each end with `E` low keeps the rule when each does. -/
theorem movesWhileLow_flatMap {α : Type} {f : α → List BusOp}
    (hend : ∀ a, levelAfter false ((f a).map .bus) = false) (hf : ∀ a, movesWhileLow false ((f a).map .bus) = true)
    (l : List α) : movesWhileLow false ((l.flatMap f).map .bus) = true := by
  induction l with
  | nil => rfl
  | cons a l ih => rw [List.flatMap_cons, List.map_append, movesWhileLow_append, hf, hend, ih, Bool.and_self]

/-- A word and the delay after it keep the rule (R130, R132, R136). -/
theorem movesWhileLow_initStep (c : Config) (i : Instr) :
    movesWhileLow false ((initStep (wordOps c i)).map .bus) = true := by
  cases i <;> rfl

/-- So does the dispatch of a character (R139). -/
theorem movesWhileLow_charOps (c : Config) (ch : Byte) : movesWhileLow false ((charOps c ch).map .bus) = true := by
  unfold charOps
  split <;> rfl

/-- Every phase keeps the rule. -/
theorem movesWhileLow_phaseOps {c : Config} {f : Memory} {p : Phase} {ops : List MicroOp}
    (h : phaseOps c f p = some ops) : movesWhileLow false ops = true := by
  cases p with
  | init => cases h; exact movesWhileLow_flatMap (levelAfter_initStep c) (movesWhileLow_initStep c) (initWords c)
  | text =>
    obtain ⟨text, -, rfl⟩ := Option.map_eq_some_iff.1 h
    rw [textOps, movesWhileLow_append, textBusOps,
      movesWhileLow_flatMap (levelAfter_charOps c) (movesWhileLow_charOps c)]
    rfl
  | sampleX | sampleY | buttons | decide | update | clear | throttle => cases h; rfl

/-- Settles O53: a µop that moves a line leaves `E`, which is low there by the lists (`movesWhileLow_phaseOps`) and
`Inv.enable`. -/
theorem linesMoveOnlyWhileEnableLow : Obligations.LinesMoveOnlyWhileEnableLow := by
  intro s t h hrst hstep hdiffer
  rcases step_cases hstep with ⟨w, -, hplaced, -⟩ | ⟨-, hhigh, -⟩ | ⟨-, -, ops, op, hops, hop, rfl⟩
  · simp [h.idle] at hplaced
  · simp [hrst] at hhigh
  have hmoves : op.movesLine = true := by
    by_contra hnot
    obtain ⟨hd, hrs⟩ := MicroOp.perform_keeps_lines (Bool.eq_false_of_not_eq_true hnot) s.present s
    exact hdiffer.elim (· hd) (· hrs)
  have hlow : s.lcdE = false :=
    (h.enable ops hops).trans (levelAfter_take_of_movesWhileLow (movesWhileLow_phaseOps hops) hop hmoves)
  have hstays : (op.perform s.present s).lcdE = s.lcdE := by
    rw [op.perform_lcdE, MicroOp.levelAfter_of_movesLine hmoves]
  exact ⟨hlow, hstays.trans hlow⟩

end Sys2Proof.Machine
